-- ==== Sys2Proof/Word.lean ====
section
/-! DEFINITION. The words of TFM-PE: every quantity is an unsigned byte, an unsigned 16-bit value or a boolean
(00_scope.md R9). -/

namespace Sys2Proof

/-- 8 bits, an unsigned value 0 to 255 (R9). -/
abbrev Byte := BitVec 8

/-- 16 bits, unsigned: a request argument, READING, STRENGTH, RSP_DATA (10_state.md R21). -/
abbrev Half := BitVec 16

/-- The 8 bytes of one command frame, byte 0 sent first (10_state.md R25). -/
abbrev Template := Vector Byte 8

end Sys2Proof
end

