-- ==== Sys2Proof/Syntax.lean ====
section
/-! DEFINITION. The names of the 14 command kinds and the two synchronizer modes, and `Instr`: one constructor per row of
spec/opcode_table.json. -/

namespace Sys2Proof

/-- The 14 command kinds (30_encoding.md R100). -/
inductive Kind where
  | enter | exit | format | period | unit | pattern | mode | range | strLo | strHi | baud | trigSrc | trigger | reset
  deriving DecidableEq, Repr

/-- FSMODE: which frame the synchronizer looks for (30_encoding.md R94). -/
inductive FsMode where
  | ack | meas
  deriving DecidableEq, Repr

/-- The rows of spec/opcode_table.json. A request keeps its whole 16-bit `arg`, because register ARG latches all of it
(10_state.md R41). A command frame keeps the bytes its setter writes (30_encoding.md R100): the others are CT_INIT's. -/
inductive Instr where
  -- format REQ20 (30_encoding.md R103, R104)
  | readMeasurement (arg : Half)
  | getBudget (arg : Half)
  | setOutputFormat (arg : Half)
  | setOutputPeriod (arg : Half)
  | setDistanceUnit (arg : Half)
  | setDetectionPattern (arg : Half)
  | setDistanceMode (arg : Half)
  | setRangeLimit (arg : Half)
  | setStrengthLow (arg : Half)
  | setStrengthHigh (arg : Half)
  | setBaudRate (arg : Half)
  | setTriggerSource (arg : Half)
  | triggerMeasurement (arg : Half)
  | resetDevice (arg : Half)
  | setBudget (arg : Half)
  | reservedOp15 (arg : Half)
  -- format CMD8 (R91, R100)
  | cmdEnter
  | cmdExit
  | cmdFormat (sel : Byte)
  | cmdPeriod (ms : Half)
  | cmdUnit (sel : Byte)
  | cmdPattern (sel : Byte)
  | cmdMode (sel : Byte)
  | cmdRange (mm : Half) (flag : Byte)
  | cmdStrLo (v : Half)
  | cmdStrHi (v : Half)
  | cmdBaud (sel : Byte)
  | cmdTrigSrc (sel : Byte)
  | cmdTrigger
  | cmdReset
  -- format ACK4 (R92, R95)
  | ackSuccess
  | ackErrorInstruction
  | ackErrorParameter
  | ackOther (status : Byte)
  -- format MEAS9 (R93)
  | measFrame (dLo dHi sLo sHi mode reserved checksum : Byte)
  -- format PROC (R111): no encoding
  | sync (m : FsMode)
  | syncAck
  | bracket (c : Kind)
  | decodePayload
  | checksum
  | extract
  deriving DecidableEq, Repr

end Sys2Proof
end

