-- ==== Sys2Proof/Config.lean ====
section
/-! DEFINITION. The parameters an instance of TFM-PE is built with: the points 00_scope.md R8 leaves open.
They are plain data. Every statement over all states is a statement over all of their values (log 2).
The constants of R7 and the reference values are in Machine/Params.lean. -/

namespace Sys2Proof

/-- The open parameters of R8. Bytes 0 to 3 of every template and 0x07 ∈ MODE_LONG are fixed by the spec and are
therefore no fields: a `Config` cannot break them. -/
structure Config where
  /-- CT_INIT[k][4..7] for the 14 kinds (R101, D6). -/
  ctTail : Vector (Vector Byte 4) 14
  /-- RL_EN (R8, D8). -/
  rlEn : Byte
  /-- RL_DIS (R8, D8). -/
  rlDis : Byte
  /-- PATTERN_FIX (R8, D9). -/
  patternFix : Byte
  /-- MODE_SHORT = (short0, short1) (R8, R96, D17). -/
  short0 : Byte
  /-- The second element of MODE_SHORT. -/
  short1 : Byte
  /-- MODE_LONG = (0x07, long1) (R8, R96, D17). -/
  long1 : Byte
  /-- EXIT_ACK_SCAN (R8, R172, D14). -/
  exitAckScan : Bool
  /-- MSA_W, the width of MSA and ATT (R8, R23, D18). -/
  msaW : Nat
  /-- DEVID_W (R8, R22, D27). -/
  devIdW : Nat
  /-- The strap value of DEV_ID (R22, R45). -/
  devId : Nat
  deriving DecidableEq, Repr

/-- The constraints of R8 on the parameters. -/
abbrev Config.Wf (c : Config) : Prop :=
  c.rlEn ≠ c.rlDis ∧ c.short0 ≠ c.short1 ∧ c.long1 ≠ 0x07#8 ∧
    c.short0 ≠ 0x07#8 ∧ c.short0 ≠ c.long1 ∧ c.short1 ≠ 0x07#8 ∧ c.short1 ≠ c.long1 ∧
    50 < 2 ^ c.msaW ∧ c.devId < 2 ^ c.devIdW

end Sys2Proof
end

