-- ==== Sys2Proof/Machine/Params.lean ====
section
/-! DEFINITION. The constants the spec fixes (00_scope.md R7), the numbering of the command kinds (30_encoding.md R100),
CT_INIT, and the reference parameter values `State.reset` is built with (log 2, log 3). -/

namespace Sys2Proof

/-- The index k of a command kind (R100). -/
def Kind.idx : Kind → Fin 14
  | .enter => 0 | .exit => 1 | .format => 2 | .period => 3 | .unit => 4 | .pattern => 5 | .mode => 6
  | .range => 7 | .strLo => 8 | .strHi => 9 | .baud => 10 | .trigSrc => 11 | .trigger => 12 | .reset => 13

/-- The 4-bit code of a command kind, as registers CMD and KIND hold it (R100, 10_state.md R21). -/
def Kind.code (k : Kind) : BitVec 4 := BitVec.ofNat 4 k.idx.val

/-- All 14 kinds in the order of R100. -/
def Kind.all : List Kind :=
  [.enter, .exit, .format, .period, .unit, .pattern, .mode, .range, .strLo, .strHi, .baud, .trigSrc, .trigger, .reset]

/-- The template bytes a setter writes for a kind (R100, 42_setters.md R192). -/
def Kind.writes : Kind → List (Fin 8)
  | .enter => [] | .exit => [] | .format => [6] | .period => [4, 5] | .unit => [6] | .pattern => [6] | .mode => [6]
  | .range => [4, 5, 6] | .strLo => [4, 5] | .strHi => [4, 5] | .baud => [6] | .trigSrc => [6]
  | .trigger => [] | .reset => []

/-- NOEXIT: the four kinds after which no exit frame is sent (R100, 41_command_fsm.md R175). -/
def Kind.noExit : Kind → Bool
  | .baud | .trigSrc | .trigger | .reset => true
  | .enter | .exit | .format | .period | .unit | .pattern | .mode | .range | .strLo | .strHi => false

/-- The kinds 2 to 13, which a bracket can execute (41_command_fsm.md R162). -/
def Kind.isCommand : Kind → Bool
  | .enter | .exit => false
  | .format | .period | .unit | .pattern | .mode | .range | .strLo | .strHi | .baud | .trigSrc | .trigger | .reset => true

/-- The magic prefix P of a run (30_encoding.md R94): ACK_MAGIC and MEAS_MAGIC of R7. -/
def prefixOf : FsMode → List Byte
  | .ack => [0x42#8, 0x57#8, 0x02#8]
  | .meas => [0x59#8, 0x59#8]

/-- L, the length of the prefix (R94). -/
def prefixLen : FsMode → Nat
  | .ack => 3
  | .meas => 2

/-- N, the number of payload bytes (R94). -/
def payloadLen : FsMode → Nat
  | .ack => 1
  | .meas => 7

/-- MSA_DEFAULT (R7). -/
def msaDefault : Nat := 50

/-- ENTER_TRIES (R7). -/
def enterTries : Nat := 3

/-- SENTINEL (R7). -/
def sentinel : Half := 0xFFFF#16

/-- CT_INIT[k]: CMD_HDR `42 57 02 00` (R7), then the four open bytes (R101). -/
def Config.ctInit (c : Config) (k : Kind) : Template :=
  #v[0x42#8, 0x57#8, 0x02#8, 0x00#8, c.ctTail[k.idx][0], c.ctTail[k.idx][1], c.ctTail[k.idx][2], c.ctTail[k.idx][3]]

/-- The command table right after reset (10_state.md R45). -/
def Config.ctInitTable (c : Config) : Vector Template 14 :=
  #v[c.ctInit .enter, c.ctInit .exit, c.ctInit .format, c.ctInit .period, c.ctInit .unit, c.ctInit .pattern,
    c.ctInit .mode, c.ctInit .range, c.ctInit .strLo, c.ctInit .strHi, c.ctInit .baud, c.ctInit .trigSrc,
    c.ctInit .trigger, c.ctInit .reset]

/-- A value held in a register of MSA_W bits (R21: MSA and ATT). -/
def Config.narrow (c : Config) (n : Nat) : Nat := n % 2 ^ c.msaW

/-- The instance `State.reset` is built with. PRESUMED (log 2): the TFmini family's values, as 93_implementation_defined.md
G1, G2 and G3 list them, for CT_INIT bytes 4 to 7, RL_EN, RL_DIS, PATTERN_FIX, MODE_SHORT and MODE_LONG. EXIT_ACK_SCAN
and MSA_W have the defaults of R8. DEVID_W and the strap are a DESIGN CHOICE (log 3). -/
def Config.reference : Config where
  ctTail := #v[
    #v[0x00#8, 0x00#8, 0x01#8, 0x02#8], #v[0x00#8, 0x00#8, 0x00#8, 0x02#8],
    #v[0x00#8, 0x00#8, 0x01#8, 0x06#8], #v[0x00#8, 0x00#8, 0x00#8, 0x07#8],
    #v[0x00#8, 0x00#8, 0x00#8, 0x1A#8], #v[0x00#8, 0x00#8, 0x00#8, 0x14#8],
    #v[0x00#8, 0x00#8, 0x02#8, 0x11#8], #v[0x00#8, 0x00#8, 0x00#8, 0x19#8],
    #v[0x00#8, 0x00#8, 0x00#8, 0x20#8], #v[0x00#8, 0x00#8, 0x00#8, 0x21#8],
    #v[0x00#8, 0x00#8, 0x06#8, 0x08#8], #v[0x00#8, 0x00#8, 0x01#8, 0x40#8],
    #v[0x00#8, 0x00#8, 0x00#8, 0x41#8], #v[0xFF#8, 0xFF#8, 0xFF#8, 0xFF#8]]
  rlEn := 0x01#8
  rlDis := 0x00#8
  patternFix := 0x01#8
  short0 := 0x00#8
  short1 := 0x02#8
  long1 := 0x03#8
  exitAckScan := true
  msaW := 16
  devIdW := 8
  devId := 0

/-- `Valid(arg)` of SET_OUTPUT_PERIOD (42_setters.md R194, R207): unsigned remainder by PERIOD_STEP. -/
def validPeriod (arg : Half) : Bool := arg.toNat % 10 == 0

/-- `Valid(arg)` of SET_RANGE_LIMIT (R200, R207). -/
def validRange (arg : Half) : Bool :=
  arg.toNat == 0 || (decide (300 ≤ arg.toNat) && decide (arg.toNat ≤ 12000))

/-- `Valid(arg)` of SET_STRENGTH_LOW (R201, R207). -/
def validStrLo (arg : Half) : Bool := decide (arg.toNat ≤ 80)

/-- `Valid(arg)` of SET_STRENGTH_HIGH (R202, R207). -/
def validStrHi (arg : Half) : Bool := decide (arg.toNat ≤ 3000)

/-- `PackFlag(K_RANGE, en)` with en = (mm ≠ 0): the value of byte 6 of the range template (30_encoding.md R102, R200). -/
def Config.rangeFlag (c : Config) (mm : Half) : Byte := if mm = 0 then c.rlDis else c.rlEn

/-- `v[7:0]` (20_memory.md R66). -/
def loByte (v : Half) : Byte := v.extractLsb' 0 8

/-- `v[15:8]` (R66). -/
def hiByte (v : Half) : Byte := v.extractLsb' 8 8

/-- `(hi, lo)`: a received 16-bit quantity, low byte first on the wire (R66). -/
def half (lo hi : Byte) : Half := hi ++ lo

end Sys2Proof
end

