-- ==== Sys2Proof/WellFormed.lean ====
section
/-! DEFINITION. Which terms of `Instr` the spec allows: a host may issue ops 0 to 14 with any argument (60_exceptions.md
R280), the engine sends only the frames its setters can make (30_encoding.md R108), and a procedure has the operands of its
rule. -/

namespace Sys2Proof

/-- Well-formedness of an instruction for an instance with parameters `c`. -/
def Instr.wf (c : Config) : Instr → Bool
  | .readMeasurement _ | .getBudget _ | .setOutputFormat _ | .setOutputPeriod _ | .setDistanceUnit _
  | .setDetectionPattern _ | .setDistanceMode _ | .setRangeLimit _ | .setStrengthLow _ | .setStrengthHigh _
  | .setBaudRate _ | .setTriggerSource _ | .triggerMeasurement _ | .resetDevice _ | .setBudget _ => true
  | .reservedOp15 _ => false                                        -- R107: reserved
  | .cmdEnter | .cmdExit | .cmdFormat _ | .cmdUnit _ | .cmdPattern _ | .cmdMode _ | .cmdBaud _ | .cmdTrigSrc _
  | .cmdTrigger | .cmdReset => true
  | .cmdPeriod ms => validPeriod ms                                 -- R194: only a valid period is ever packed
  | .cmdRange mm flag => validRange mm && flag == c.rangeFlag mm    -- R200
  | .cmdStrLo v => validStrLo v                                     -- R201
  | .cmdStrHi v => validStrHi v                                     -- R202
  | .ackSuccess | .ackErrorInstruction | .ackErrorParameter => true
  | .ackOther st => st != 0x01#8 && st != 0xFF#8 && st != 0x0F#8    -- R95: the other 253 values
  | .measFrame _ _ _ _ _ _ _ => true
  | .sync _ | .syncAck | .decodePayload | .checksum | .extract => true
  | .bracket c => c.isCommand                                       -- R162: C in 2..13

end Sys2Proof
end

