-- ==== Sys2Proof/Decode.lean ====
section
/-! DEFINITION. Decoding the four formats of 30_encoding.md (REQ20, CMD8, ACK4, MEAS9) from bytes, total and rejecting by
name, then the encoder, then the two readings of a table word the host asks for. Procedures (format PROC) have no encoding
(R111), so no word decodes to one. -/

namespace Sys2Proof

/-- The encodable formats of 30_encoding.md. -/
inductive Format where
  /-- The request word (R103), laid out as three bytes, the low byte first (log 19). -/
  | req20
  /-- The command frame (R91). -/
  | cmd8
  /-- The acknowledgment (R92). -/
  | ack4
  /-- The measurement frame (R93). -/
  | meas9
  deriving DecidableEq, Repr

/-- Why bytes are no instruction of a format. -/
inductive DecodeError where
  /-- Not the fixed length of the format (R90). -/
  | wrongLength
  /-- A request word of more than 20 bits (R103). -/
  | moreThanTwentyBits
  /-- The magic bytes or the command header are not there (R91, R92, R93). -/
  | wrongPrefix
  /-- No template of the instance agrees with the frame on the bytes no setter writes (R100, R101). -/
  | noSuchTemplate
  /-- The bytes the setter writes are none that it can write (R108). -/
  | operandNeverSent
  deriving DecidableEq, Repr

/-- The operation of a request word (R103, R104): total on all 20-bit words, op 15 being the reserved row (R107). -/
def decodeReqWord (w : BitVec 20) : Instr :=
  let arg : Half := w.extractLsb' 0 16
  match (w.extractLsb' 16 4).toNat with
  | 0 => .readMeasurement arg
  | 1 => .getBudget arg
  | 2 => .setOutputFormat arg
  | 3 => .setOutputPeriod arg
  | 4 => .setDistanceUnit arg
  | 5 => .setDetectionPattern arg
  | 6 => .setDistanceMode arg
  | 7 => .setRangeLimit arg
  | 8 => .setStrengthLow arg
  | 9 => .setStrengthHigh arg
  | 10 => .setBaudRate arg
  | 11 => .setTriggerSource arg
  | 12 => .triggerMeasurement arg
  | 13 => .resetDevice arg
  | 14 => .setBudget arg
  | _ => .reservedOp15 arg

/-- The command-frame row of kind k with the operand bytes the template t holds (R91, R100). -/
def cmdInstr (k : Kind) (t : Template) : Instr :=
  match k with
  | .enter => .cmdEnter
  | .exit => .cmdExit
  | .format => .cmdFormat t[6]
  | .period => .cmdPeriod (half t[4] t[5])
  | .unit => .cmdUnit t[6]
  | .pattern => .cmdPattern t[6]
  | .mode => .cmdMode t[6]
  | .range => .cmdRange (half t[4] t[5]) t[6]
  | .strLo => .cmdStrLo (half t[4] t[5])
  | .strHi => .cmdStrHi (half t[4] t[5])
  | .baud => .cmdBaud t[6]
  | .trigSrc => .cmdTrigSrc t[6]
  | .trigger => .cmdTrigger
  | .reset => .cmdReset

/-- The eight byte positions of a template. -/
def byteIndexes : List (Fin 8) := [0, 1, 2, 3, 4, 5, 6, 7]

/-- The frame t agrees with CT_INIT[k] on every byte that no setter writes for k (R100, R192). -/
def Config.frameFits (c : Config) (t : Template) (k : Kind) : Bool :=
  byteIndexes.all fun i => k.writes.contains i || t[i] == (c.ctInit k)[i]

/-- A command frame seen by an instance with parameters `c`. The frame does not carry its kind: it is told from the bytes
no setter writes, the first fitting kind in the order of R100 (log 19). -/
def decodeCmd (c : Config) (t : Template) : Except DecodeError Instr :=
  match Kind.all.find? (c.frameFits t) with
  | none => .error .noSuchTemplate
  | some k => if (cmdInstr k t).wf c then .ok (cmdInstr k t) else .error .operandNeverSent

/-- The row of an acknowledgment with status byte st (R92, R95). -/
def ackInstr (st : Byte) : Instr :=
  if st = 0x01#8 then .ackSuccess
  else if st = 0xFF#8 then .ackErrorInstruction
  else if st = 0x0F#8 then .ackErrorParameter
  else .ackOther st

/-- The decoder: total on any bytes of any length. -/
def decode (c : Config) (f : Format) (bs : List Byte) : Except DecodeError Instr :=
  match f, bs with
  | .req20, [b0, b1, b2] =>
      if b2.extractLsb' 4 4 = 0#4 then .ok (decodeReqWord (b2.extractLsb' 0 4 ++ (b1 ++ b0)))
      else .error .moreThanTwentyBits
  | .cmd8, [b0, b1, b2, b3, b4, b5, b6, b7] =>
      if [b0, b1, b2, b3] = [0x42#8, 0x57#8, 0x02#8, 0x00#8] then decodeCmd c #v[b0, b1, b2, b3, b4, b5, b6, b7]
      else .error .wrongPrefix
  | .ack4, [b0, b1, b2, st] => if [b0, b1, b2] = prefixOf .ack then .ok (ackInstr st) else .error .wrongPrefix
  | .meas9, [b0, b1, dLo, dHi, sLo, sHi, mode, res, ck] =>
      if [b0, b1] = prefixOf .meas then .ok (.measFrame dLo dHi sLo sHi mode res ck) else .error .wrongPrefix
  | .req20, _ => .error .wrongLength
  | .cmd8, _ => .error .wrongLength
  | .ack4, _ => .error .wrongLength
  | .meas9, _ => .error .wrongLength

/-- The received frame that a run of bytes is, if it is one (R92, R93): used when a transport hands over a buffer. -/
def decodeReceived (c : Config) (bs : List Byte) : Option Instr :=
  match decode c .ack4 bs with
  | .ok i => some i
  | .error _ => (decode c .meas9 bs).toOption

/-! The encoder. -/

/-- The request word `op[19:16] arg[15:0]` (R103). -/
def reqWord (op : BitVec 4) (arg : Half) : BitVec 20 := op ++ arg

/-- The three bytes of a request word, the low byte first (log 19). -/
def reqBytes (op : BitVec 4) (arg : Half) : List Byte := [loByte arg, hiByte arg, op.setWidth 8]

/-- `Pack16` on a template (R102). -/
def pack16 (t : Template) (v : Half) : Template := (t.set 4 (loByte v)).set 5 (hiByte v)

/-- `PackSel` on a template (R102). -/
def packSel (t : Template) (sel : Byte) : Template := t.set 6 sel

/-- The frame of a command-frame row: CT_INIT of its kind with the operand bytes in place (R91, R102). -/
def cmdFrame (c : Config) : Instr → Option (Kind × Template)
  | .cmdEnter => some (.enter, c.ctInit .enter)
  | .cmdExit => some (.exit, c.ctInit .exit)
  | .cmdFormat sel => some (.format, packSel (c.ctInit .format) sel)
  | .cmdPeriod ms => some (.period, pack16 (c.ctInit .period) ms)
  | .cmdUnit sel => some (.unit, packSel (c.ctInit .unit) sel)
  | .cmdPattern sel => some (.pattern, packSel (c.ctInit .pattern) sel)
  | .cmdMode sel => some (.mode, packSel (c.ctInit .mode) sel)
  | .cmdRange mm flag => some (.range, packSel (pack16 (c.ctInit .range) mm) flag)
  | .cmdStrLo v => some (.strLo, pack16 (c.ctInit .strLo) v)
  | .cmdStrHi v => some (.strHi, pack16 (c.ctInit .strHi) v)
  | .cmdBaud sel => some (.baud, packSel (c.ctInit .baud) sel)
  | .cmdTrigSrc sel => some (.trigSrc, packSel (c.ctInit .trigSrc) sel)
  | .cmdTrigger => some (.trigger, c.ctInit .trigger)
  | .cmdReset => some (.reset, c.ctInit .reset)
  | .readMeasurement _ | .getBudget _ | .setOutputFormat _ | .setOutputPeriod _ | .setDistanceUnit _
  | .setDetectionPattern _ | .setDistanceMode _ | .setRangeLimit _ | .setStrengthLow _ | .setStrengthHigh _
  | .setBaudRate _ | .setTriggerSource _ | .triggerMeasurement _ | .resetDevice _ | .setBudget _ | .reservedOp15 _
  | .ackSuccess | .ackErrorInstruction | .ackErrorParameter | .ackOther _ | .measFrame _ _ _ _ _ _ _
  | .sync _ | .syncAck | .bracket _ | .decodePayload | .checksum | .extract => none

/-- Operation code and argument of a request (R104). -/
def reqOp : Instr → Option (BitVec 4 × Half)
  | .readMeasurement a => some (0#4, a)
  | .getBudget a => some (1#4, a)
  | .setOutputFormat a => some (2#4, a)
  | .setOutputPeriod a => some (3#4, a)
  | .setDistanceUnit a => some (4#4, a)
  | .setDetectionPattern a => some (5#4, a)
  | .setDistanceMode a => some (6#4, a)
  | .setRangeLimit a => some (7#4, a)
  | .setStrengthLow a => some (8#4, a)
  | .setStrengthHigh a => some (9#4, a)
  | .setBaudRate a => some (10#4, a)
  | .setTriggerSource a => some (11#4, a)
  | .triggerMeasurement a => some (12#4, a)
  | .resetDevice a => some (13#4, a)
  | .setBudget a => some (14#4, a)
  | .reservedOp15 a => some (15#4, a)
  | .cmdEnter | .cmdExit | .cmdFormat _ | .cmdPeriod _ | .cmdUnit _ | .cmdPattern _ | .cmdMode _ | .cmdRange _ _
  | .cmdStrLo _ | .cmdStrHi _ | .cmdBaud _ | .cmdTrigSrc _ | .cmdTrigger | .cmdReset
  | .ackSuccess | .ackErrorInstruction | .ackErrorParameter | .ackOther _ | .measFrame _ _ _ _ _ _ _
  | .sync _ | .syncAck | .bracket _ | .decodePayload | .checksum | .extract => none

/-- The bytes of a received-frame row (R92, R93). -/
def receivedBytes : Instr → Option (List Byte)
  | .ackSuccess => some [0x42#8, 0x57#8, 0x02#8, 0x01#8]
  | .ackErrorInstruction => some [0x42#8, 0x57#8, 0x02#8, 0xFF#8]
  | .ackErrorParameter => some [0x42#8, 0x57#8, 0x02#8, 0x0F#8]
  | .ackOther st => some [0x42#8, 0x57#8, 0x02#8, st]
  | .measFrame dLo dHi sLo sHi mode res ck => some [0x59#8, 0x59#8, dLo, dHi, sLo, sHi, mode, res, ck]
  | .readMeasurement _ | .getBudget _ | .setOutputFormat _ | .setOutputPeriod _ | .setDistanceUnit _
  | .setDetectionPattern _ | .setDistanceMode _ | .setRangeLimit _ | .setStrengthLow _ | .setStrengthHigh _
  | .setBaudRate _ | .setTriggerSource _ | .triggerMeasurement _ | .resetDevice _ | .setBudget _ | .reservedOp15 _
  | .cmdEnter | .cmdExit | .cmdFormat _ | .cmdPeriod _ | .cmdUnit _ | .cmdPattern _ | .cmdMode _ | .cmdRange _ _
  | .cmdStrLo _ | .cmdStrHi _ | .cmdBaud _ | .cmdTrigSrc _ | .cmdTrigger | .cmdReset
  | .sync _ | .syncAck | .bracket _ | .decodePayload | .checksum | .extract => none

/-- The format of an instruction, if it has an encoding (R111). -/
def formatOf (i : Instr) : Option Format :=
  match i with
  | .readMeasurement _ | .getBudget _ | .setOutputFormat _ | .setOutputPeriod _ | .setDistanceUnit _
  | .setDetectionPattern _ | .setDistanceMode _ | .setRangeLimit _ | .setStrengthLow _ | .setStrengthHigh _
  | .setBaudRate _ | .setTriggerSource _ | .triggerMeasurement _ | .resetDevice _ | .setBudget _ | .reservedOp15 _ =>
      some .req20
  | .cmdEnter | .cmdExit | .cmdFormat _ | .cmdPeriod _ | .cmdUnit _ | .cmdPattern _ | .cmdMode _ | .cmdRange _ _
  | .cmdStrLo _ | .cmdStrHi _ | .cmdBaud _ | .cmdTrigSrc _ | .cmdTrigger | .cmdReset => some .cmd8
  | .ackSuccess | .ackErrorInstruction | .ackErrorParameter | .ackOther _ => some .ack4
  | .measFrame _ _ _ _ _ _ _ => some .meas9
  | .sync _ | .syncAck | .bracket _ | .decodePayload | .checksum | .extract => none

/-- The encoder: the bytes of an instruction in transmission order, none for a procedure. -/
def encode (c : Config) (i : Instr) : List Byte :=
  match reqOp i with
  | some (op, arg) => reqBytes op arg
  | none =>
    match cmdFrame c i with
    | some (_, t) => t.toList
    | none => (receivedBytes i).getD []

/-- The templates of an instance tell the kinds apart: two kinds differ in a byte that no setter writes for either.
R101 forbids assuming it. The reference values have it. -/
def Config.templatesSeparate (c : Config) : Bool :=
  Kind.all.all fun k => Kind.all.all fun k' => k == k' ||
    byteIndexes.any fun i =>
      !k.writes.contains i && !k'.writes.contains i && (c.ctInit k)[i] != (c.ctInit k')[i]

/-! Table words: bit 0 is the least significant bit of the first byte. -/

/-- The first n bytes of a table word. -/
def tableBytes : Nat → Nat → List Byte
  | 0, _ => []
  | n + 1, w => BitVec.ofNat 8 w :: tableBytes n (w / 256)

/-- The format of a table word, by its width (R91 to R93, R103), and the bytes it has. A row may give its operand bytes no
bits: MEAS_FRAME has 16 and ACK_OTHER 24, as wide as a request word in whole bytes. DESIGN CHOICE (log 19): the bare prefix
`42 57 02` in exactly 24 bits is the acknowledgment with status 00; at every other width from 17 to 23 the same number is a
request word, SET_OUTPUT_FORMAT with argument 0x5742 (R103, R104). -/
def formatOfTableWord (nbits w : Nat) : Option (Format × Nat) :=
  if nbits = 0 then none
  else if nbits ≤ 16 then some (.meas9, 9)
  else if nbits ≤ 24 then some (if nbits = 24 ∧ w = 0x025742 then (.ack4, 4) else (.req20, 3))
  else if nbits ≤ 32 then some (.ack4, 4)
  else if nbits ≤ 64 then some (.cmd8, 8)
  else if nbits ≤ 72 then some (.meas9, 9)
  else none

/-- The instruction the decoder reads from a table word, for the reference instance. -/
def decodeTableWord (nbits w : Nat) : Option Instr :=
  match formatOfTableWord nbits w with
  | none => none
  | some (f, n) => (decode Config.reference f (tableBytes n w)).toOption

end Sys2Proof
end

