-- ==== Sys2Proof/Machine/State.lean ====
section
/-! DEFINITION. The state of one TFM-PE instance (10_state.md), its faults and refusals, and its reset. Plain data. -/

namespace Sys2Proof.Machine

/-- Status values (10_state.md R33, 00_scope.md R11). -/
inductive Status where
  | success | errorInstruction | errorParameter | errorTransmission
  deriving DecidableEq, Repr

/-- CX, the state of the command executor (R28). The codes 6 and 7 are "never reached" and have no constructor. -/
inductive Cx where
  | idle | enterPending | commandSent | exitPending | done | failed
  deriving DecidableEq, Repr

/-- PH, the sequencer phase (R29). The codes 5 to 7 are "never reached" and have no constructor. -/
inductive Phase where
  | idle | tx | scan | pay | rsp
  deriving DecidableEq, Repr

/-- STAGE of SET_DISTANCE_MODE (R30): 0 forcing the pattern, 1 changing the mode. -/
inductive Stage where
  | pattern | mode
  deriving DecidableEq, Repr

/-- The transport's answer to one offered TX byte (20_memory.md R63). -/
inductive TxAns where
  | done | fail
  deriving DecidableEq, Repr

/-- The transport's answer to one RX ask (R62). -/
inductive RxAns where
  | byte (b : Byte) | fail
  deriving DecidableEq, Repr

/-- What one transfer of the response port carries: all result registers at once (10_state.md R40, 30_encoding.md R105). -/
structure Response where
  status : Option Status
  data : Option Half
  measValid : Option Bool
  reading : Option Half
  strength : Option Half
  short : Option Bool
  ckOk : Option Bool
  deriving DecidableEq, Repr

/-- One entry of the event history of 20_memory.md R75 (log 7). -/
inductive Obs where
  /-- An accepted request. -/
  | req (op : BitVec 4) (arg : Half)
  /-- A TX transaction: the device it is for, the byte, the answer. -/
  | tx (dev : Nat) (b : Byte) (a : TxAns)
  /-- An RX transaction: the device it is for, the answer. -/
  | rx (dev : Nat) (a : RxAns)
  /-- A response taken by the host. -/
  | rsp (r : Response)
  /-- A reset. -/
  | rst
  deriving DecidableEq, Repr

/-- Why a synchronizer run found nothing (40_frame_sync.md R131). -/
inductive SyncCause where
  | budgetExhausted | transportFailure
  deriving DecidableEq, Repr

/-- The result of `Sync` (R131). -/
inductive SyncResult where
  | found | notFound (c : SyncCause)
  deriving DecidableEq, Repr

/-- What a procedure called by itself (rows Sync, SyncAck, Exec) returned (log 8). -/
inductive Ret where
  | none
  | sync (r : SyncResult)
  | status (st : Status)
  /-- The answers ran out: the procedure is blocked in a transaction (R62, R302). -/
  | waiting
  deriving DecidableEq, Repr

/-- The result registers a host may look at (10_state.md R24). -/
inductive ResultReg where
  | reading | strength | short | ckOk | measValid | rspStatus | rspData
  deriving DecidableEq, Repr

/-- The events of R41 that the transport and the host answer with. -/
inductive EventName where
  | txDone | txFail | rxByte | rxFail | rspTaken
  deriving DecidableEq, Repr

/-- Faults: the engine has none (30_encoding.md R106, 60_exceptions.md R271), so there is no constructor. -/
inductive Fault where
  deriving DecidableEq, Repr

/-- Refusals. -/
inductive Refusal where
  /-- Raised by an arm of `exec` for an instruction without a meaning (none is left). Safe. -/
  | notModelled (mnemonic : String)
  /-- Raised by `execReservedOp15`: the spec leaves op 15 undefined and says a model refuses it (30_encoding.md R107, U1,
  D22). Safe. -/
  | reservedOperation (arg : Half)
  /-- Raised by an event operation in a phase where R41 does not enable it (U17: refuse). `step` never does this. Safe. -/
  | eventNotEnabled (e : EventName)
  /-- Raised by the command-frame rows when the engine is not offering that frame on the TX port (R41, R63, U17: refuse).
  Safe. -/
  | frameNotOffered (k : Kind)
  /-- Raised by `stepResult` in Idle, Done or Failed, which 41_command_fsm.md R169 says cannot occur (log 13). Safe. -/
  | noFrameSent
  deriving DecidableEq, Repr

/-- One TFM-PE instance with its environment's pending inputs. -/
structure State where
  /-- The instance's parameters (00_scope.md R8). No step changes them (log 2). -/
  cfg : Config
  /-- DEV_ID (R22). -/
  devId : Nat
  /-- MSA, MSA_W bits (R23). -/
  msa : Nat
  /-- CT[0..13][0..7] (R25). -/
  ct : Vector Template 14
  /-- READING or unwritten (R26). -/
  reading : Option Half
  /-- STRENGTH or unwritten (R26). -/
  strength : Option Half
  /-- SHORT or unwritten (R26). -/
  short : Option Bool
  /-- CK_OK or unwritten (R26). -/
  ckOk : Option Bool
  /-- MEAS_VALID or unwritten (R26). -/
  measValid : Option Bool
  /-- PB[0..6] (R27). -/
  pb : Vector Byte 7
  /-- CX (R28). -/
  cx : Cx
  /-- PH (R29). -/
  ph : Phase
  /-- OP (R30). -/
  op : BitVec 4
  /-- ARG (R30). -/
  arg : Half
  /-- CMD (R30). -/
  cmd : Kind
  /-- KIND (R30). -/
  kind : Kind
  /-- TXI, 3 bits (R30). -/
  txi : Fin 8
  /-- TRY, 2 bits (R30). -/
  tries : Fin 4
  /-- STAT (R30). -/
  stat : Status
  /-- STAGE (R30). -/
  stage : Stage
  /-- FSMODE (R31). -/
  fsmode : FsMode
  /-- MC, 2 bits (R31). -/
  mc : Fin 4
  /-- ATT, MSA_W bits (R31). -/
  att : Nat
  /-- PC, 3 bits (R31). -/
  pc : Fin 8
  /-- RSP_VALID (R32). -/
  rspValid : Bool
  /-- RSP_STATUS or unwritten (R32). -/
  rspStatus : Option Status
  /-- RSP_DATA or unwritten (R32). -/
  rspData : Option Half
  /-- Environment: the level of `rst` at the coming steps (log 5). -/
  rst : List Bool
  /-- Environment: the request words pending at the host (log 4). -/
  reqs : List (BitVec 20)
  /-- Environment: how many responses the host is ready to take (log 4). -/
  takes : Nat
  /-- Environment: the transport's coming answers to TX bytes (log 4). -/
  txAns : List TxAns
  /-- Environment: the transport's coming answers to RX asks, the RX stream not yet read (R43, log 4). -/
  rxAns : List RxAns
  /-- Environment: the transport takes the rest of the frame on the TX port as one buffer call (R61, log 6). -/
  txBuf : Bool
  /-- Environment: bytes the transport hands over as one buffer call (R61, log 6). -/
  rxBuf : List Byte
  /-- The event history, newest first (R75, log 7). No rule of the engine reads it. -/
  hist : List Obs
  /-- What the last procedure called by itself returned (log 8). No rule of the engine reads it. -/
  ret : Ret
  deriving DecidableEq, Repr

/-- The three outcomes of a step of this machine. -/
abbrev Result := Host.Outcome State Fault Refusal

/-- An instance with parameters `c` right after reset, its environment with nothing pending (10_state.md R45). The
registers R45 leaves unspecified hold zero (log 1). -/
def State.resetWith (c : Config) : State where
  cfg := c
  devId := c.devId
  msa := msaDefault
  ct := c.ctInitTable
  reading := none
  strength := none
  short := none
  ckOk := none
  measValid := none
  pb := #v[0#8, 0#8, 0#8, 0#8, 0#8, 0#8, 0#8]
  cx := .idle
  ph := .idle
  op := 0#4
  arg := 0#16
  cmd := .enter
  kind := .enter
  txi := 0
  tries := 0
  stat := .success
  stage := .pattern
  fsmode := .ack
  mc := 0
  att := 0
  pc := 0
  rspValid := false
  rspStatus := none
  rspData := none
  rst := []
  reqs := []
  takes := 0
  txAns := []
  rxAns := []
  txBuf := false
  rxBuf := []
  hist := []
  ret := .none

/-- The machine right after reset (R45), for the reference instance (log 2, log 3). -/
def State.reset : State := State.resetWith Config.reference

end Sys2Proof.Machine
end

