-- ==== Sys2Proof/Machine/Operands.lean ====
section
/-! DEFINITION. Access to the two byte arrays of the engine, the command table CT and the payload buffer PB, and the three
ways a host argument enters a template (30_encoding.md R102), all of them through `setCtByte`. -/

namespace Sys2Proof.Machine

/-- `CT[k][i]` (10_state.md R25). -/
def State.ctByte (s : State) (k : Kind) (i : Fin 8) : Byte := s.ct[k.idx][i]

/-- The whole template `CT[k]`. -/
def State.template (s : State) (k : Kind) : Template := s.ct[k.idx]

/-- `CT[k][i] <- b`. -/
def State.setCtByte (s : State) (k : Kind) (i : Fin 8) (b : Byte) : State :=
  { s with ct := s.ct.set k.idx (s.ct[k.idx].set i b) }

/-- `Pack16(k, v)` (R102): bytes 4 and 5, little-endian. -/
def State.pack16 (s : State) (k : Kind) (v : Half) : State := (s.setCtByte k 4 (loByte v)).setCtByte k 5 (hiByte v)

/-- `PackSel(k, v)` (R102): byte 6 is `v[7:0]`. -/
def State.packSel (s : State) (k : Kind) (v : Half) : State := s.setCtByte k 6 (loByte v)

/-- `PackFlag(K_RANGE, mm ≠ 0)` (R102, 42_setters.md R200). -/
def State.packFlag (s : State) (mm : Half) : State := s.setCtByte .range 6 (s.cfg.rangeFlag mm)

/-- `PB[PC] <- b; PC <- PC + 1` (40_frame_sync.md R138). No byte is stored at PC = 7, which no run reaches (log 18). -/
def State.pushPayload (s : State) (b : Byte) : State :=
  { s with pb := s.pb.setIfInBounds s.pc b, pc := s.pc + 1 }

/-- READING's two bytes, `(PB[1], PB[0])` (43_decoder.md R233). -/
def readingOf (pb : Vector Byte 7) : Half := half pb[0] pb[1]

/-- STRENGTH's two bytes, `(PB[3], PB[2])` (R233). -/
def strengthOf (pb : Vector Byte 7) : Half := half pb[2] pb[3]

end Sys2Proof.Machine
end

