-- ==== Sys2Proof/Machine/Flags.lean ====
section
/-! DEFINITION. The boolean results (10_state.md R34) and the codes of Status, CX, PH, STAGE and FSMODE (R28 to R33). -/

namespace Sys2Proof.Machine

/-- CK_OK (43_decoder.md R235): the exact sum of the first eight frame bytes, modulo 256, against the ninth. -/
def checksumOk (pb : Vector Byte 7) : Bool :=
  (0x59 + 0x59 + pb[0].toNat + pb[1].toNat + pb[2].toNat + pb[3].toNat + pb[4].toNat + pb[5].toNat) % 256 == pb[6].toNat

/-- The mode byte's class (R236): `some true` in MODE_SHORT, `some false` in MODE_LONG, `none` unknown (R237). -/
def classifyMode (c : Config) (mode : Byte) : Option Bool :=
  if mode = c.short0 ∨ mode = c.short1 then some true
  else if mode = 0x07#8 ∨ mode = c.long1 then some false
  else none

/-- MEAS_VALID of a received frame (R238). -/
def measValidOf (c : Config) (pb : Vector Byte 7) : Bool :=
  checksumOk pb && readingOf pb != sentinel && (classifyMode c pb[4]).isSome

/-- The status mapper (30_encoding.md R95, 40_frame_sync.md R141). -/
def ackStatus (st : Byte) : Status :=
  if st = 0x01#8 then .success
  else if st = 0xFF#8 then .errorInstruction
  else if st = 0x0F#8 then .errorParameter
  else .errorTransmission

/-- The 2-bit code of a Status (10_state.md R33). -/
def Status.code : Status → BitVec 2
  | .success => 0 | .errorInstruction => 1 | .errorParameter => 2 | .errorTransmission => 3

/-- The 3-bit code of CX (R28). -/
def Cx.code : Cx → BitVec 3
  | .idle => 0 | .enterPending => 1 | .commandSent => 2 | .exitPending => 3 | .done => 4 | .failed => 5

/-- The 3-bit code of PH (R29). -/
def Phase.code : Phase → BitVec 3
  | .idle => 0 | .tx => 1 | .scan => 2 | .pay => 3 | .rsp => 4

/-- The 1-bit code of STAGE (R30). -/
def Stage.code : Stage → BitVec 1
  | .pattern => 0 | .mode => 1

/-- The 1-bit code of FSMODE (R94). -/
def fsModeCode : FsMode → BitVec 1
  | .ack => 0 | .meas => 1

/-- A 1-bit port signal as a 16-bit value. -/
def boolHalf (b : Bool) : Half := if b then 1 else 0

end Sys2Proof.Machine
end

