-- ==== Sys2Proof/Machine/Ops.lean ====
section
/-! DEFINITION. The shared operations of the engine: ports, request acceptance, response, the synchronizer run, the
command executor, the events of 10_state.md R41. The engine has no trap (60_exceptions.md R271): what other hardware does
on taking an exception is here `finish` and `respond` (a failure is reported and the operation ends), and the return is
`rspTaken` (R273). -/

namespace Sys2Proof.Machine

/-! Ports (R40). -/

/-- `req_ready`. -/
def State.reqReady (s : State) : Bool := s.ph == .idle

/-- `tx_valid`. -/
def State.txValid (s : State) : Bool := s.ph == .tx

/-- `tx_data = CT[KIND][TXI]`. -/
def State.txData (s : State) : Byte := s.ctByte s.kind s.txi

/-- `rx_want`. -/
def State.rxWant (s : State) : Bool := s.ph == .scan || s.ph == .pay

/-- The result registers as the response port carries them. -/
def State.response (s : State) : Response :=
  { status := s.rspStatus, data := s.rspData, measValid := s.measValid, reading := s.reading, strength := s.strength,
    short := s.short, ckOk := s.ckOk }

/-- The bits of a result register on the response port (R21, R40). -/
def ResultReg.width : ResultReg → Nat
  | .reading | .strength | .rspData => 16
  | .short | .ckOk | .measValid => 1
  | .rspStatus => 2

/-- What a result register holds, zero-extended (R24, R33). -/
def State.resultValue (s : State) : ResultReg → Option Half
  | .reading => s.reading
  | .strength => s.strength
  | .short => s.short.map boolHalf
  | .ckOk => s.ckOk.map boolHalf
  | .measValid => s.measValid.map boolHalf
  | .rspStatus => s.rspStatus.map fun st => st.code.setWidth 16
  | .rspData => s.rspData

/-- The host reads one result register (R24). DESIGN CHOICE (log 16): of the two treatments that R24 and U2 offer for an
unwritten register the model takes "any value". The free value is the argument `draw`, cut to the register's width. -/
def hostRead (r : ResultReg) (draw : Half) (s : State) : Half :=
  (s.resultValue r).getD (BitVec.ofNat 16 (draw.toNat % 2 ^ r.width))

/-! The event history (20_memory.md R75, log 7). -/

/-- Adds an entry to the history. -/
def State.observe (s : State) (o : Obs) : State := { s with hist := o :: s.hist }

/-! Requests and responses. -/

/-- The common part of `Req(op, arg)` (R41): latch, and invalidate every result register. -/
def acceptReq (op : BitVec 4) (arg : Half) (s : State) : State :=
  { s with op := op, arg := arg, reading := none, strength := none, short := none, ckOk := none, measValid := none,
           rspStatus := none, rspData := none, hist := .req op arg :: s.hist }

/-- An operation is accepted in PH_IDLE only. A request while busy is not accepted and changes nothing (R41, R42, log 10). -/
def whenIdle (s : State) (k : State → State) : Result := if s.ph = .idle then .next (k s) else .next s

/-- `RSP_VALID <- 1; PH <- PH_RSP` (41_command_fsm.md R161, 43_decoder.md R230). -/
def present (s : State) : State := { s with rspValid := true, ph := .rsp }

/-- `Respond(st)` (R161). -/
def respond (st : Status) (s : State) : State := { s with rspStatus := some st, rspValid := true, ph := .rsp }

/-! The command executor (41_command_fsm.md). -/

/-- The start of a frame of kind k on the TX port (R164, R170, R171). -/
def startFrame (k : Kind) (s : State) : State := { s with kind := k, txi := 0, ph := .tx }

/-- `BracketStart(C)` (R164). -/
def bracketStart (c : Kind) (s : State) : State := startFrame .enter { s with cmd := c, cx := .enterPending, tries := 1 }

/-- Stage 1 of SET_DISTANCE_MODE (42_setters.md R199). -/
def startModeStage (s : State) : State :=
  bracketStart .mode ({ s with stage := .mode }.packSel .mode s.arg)

/-- `Finish(st)` (R173). -/
def finish (st : Status) (s : State) : State :=
  if s.op = 6#4 ∧ s.stage = .pattern then
    if st = .success then startModeStage s else respond .errorTransmission s
  else respond st s

/-- `StepResult(r)` (R169 to R172). -/
def stepResult (r : Status) (s : State) : Result :=
  match s.cx with
  | .enterPending =>
      if r = .success then .next (startFrame s.cmd { s with cx := .commandSent })
      else if s.tries.val < enterTries then .next (startFrame .enter { s with tries := s.tries + 1 })
      else .next (finish .errorTransmission { s with cx := .failed })
  | .commandSent =>
      if s.cmd.noExit then .next (finish r { s with stat := r, cx := .done })
      else .next (startFrame .exit { s with stat := r, cx := .exitPending })
  | .exitPending => .next (finish s.stat { s with cx := .done })
  | .idle => .refused .noFrameSent
  | .done => .refused .noFrameSent
  | .failed => .refused .noFrameSent

/-! The synchronizer (40_frame_sync.md). -/

/-- The start of a run (R133). PB is not cleared, nothing is read. -/
def startRun (m : FsMode) (s : State) : State := { s with fsmode := m, mc := 0, att := 0, pc := 0, ph := .scan }

/-- `Decode(PB)` (43_decoder.md R231). SHORT is not written for an unknown mode byte (R237). -/
def decodeMeas (s : State) : State :=
  { s with reading := some (readingOf s.pb), strength := some (strengthOf s.pb), ckOk := some (checksumOk s.pb),
           short := (classifyMode s.cfg s.pb[4]).or s.short,
           measValid := some (measValidOf s.cfg s.pb) }

/-- The end of a run (R140): an ACK run's Status goes to the executor (R141, R168), a MEAS run's payload to the decoder,
and no measurement is MEAS_VALID = false (R239). -/
def endRun (found : Bool) (s : State) : Result :=
  match s.fsmode with
  | .ack => stepResult (if found then ackStatus s.pb[0] else .errorTransmission) s
  | .meas => .next (present (if found then decodeMeas s else { s with measValid := some false }))

/-- MC after the byte b (R135, R136): the breaking byte is dropped. -/
def nextMc (m : FsMode) (mc : Fin 4) (b : Byte) : Fin 4 := if (prefixOf m)[mc.val]? = some b then mc + 1 else 0

/-- ATT and MC after a search-phase byte (R134, R135). -/
def afterSearchByte (b : Byte) (s : State) : State :=
  { s with att := s.cfg.narrow (s.att + 1), mc := nextMc s.fsmode s.mc b }

/-- The two tests of the search step, in their order (R135): a prefix completed by the last budgeted read succeeds. -/
def searchTests (s : State) : Result :=
  if s.mc.val = prefixLen s.fsmode then .next { s with pc := 0, ph := .pay }
  else if s.att = s.msa then endRun false s
  else .next s

/-- The search step (R135). -/
def searchStep (b : Byte) (s : State) : Result := searchTests (afterSearchByte b s)

/-- The test of the payload step (R138). -/
def payloadTest (s : State) : Result := if s.pc.val = payloadLen s.fsmode then endRun true s else .next s

/-- The payload step (R138). -/
def payloadStep (b : Byte) (s : State) : Result := payloadTest (s.pushPayload b)

/-! The events of 10_state.md R41. Each is refused in a phase where it is not enabled (U17). -/

/-- What follows a byte the transport took (41_command_fsm.md R166). -/
def byteSent (s : State) : Result :=
  if s.txi.val < 7 then .next { s with txi := s.txi + 1 }
  else if s.cx = .exitPending ∧ s.cfg.exitAckScan = false then stepResult .success s
  else .next (startRun .ack s)

/-- `TxDone` (R166). -/
def txDone (s : State) : Result :=
  match s.ph with
  | .tx => byteSent (s.observe (.tx s.devId s.txData .done))
  | .idle => .refused (.eventNotEnabled .txDone)
  | .scan => .refused (.eventNotEnabled .txDone)
  | .pay => .refused (.eventNotEnabled .txDone)
  | .rsp => .refused (.eventNotEnabled .txDone)

/-- `TxFail` (R167): the frame is cut short and no run follows. -/
def txFail (s : State) : Result :=
  match s.ph with
  | .tx => stepResult .errorTransmission (s.observe (.tx s.devId s.txData .fail))
  | .idle => .refused (.eventNotEnabled .txFail)
  | .scan => .refused (.eventNotEnabled .txFail)
  | .pay => .refused (.eventNotEnabled .txFail)
  | .rsp => .refused (.eventNotEnabled .txFail)

/-- `RxByte(b)` (40_frame_sync.md R135, R138). -/
def rxByte (b : Byte) (s : State) : Result :=
  match s.ph with
  | .scan => searchStep b (s.observe (.rx s.devId (.byte b)))
  | .pay => payloadStep b (s.observe (.rx s.devId (.byte b)))
  | .idle => .refused (.eventNotEnabled .rxByte)
  | .tx => .refused (.eventNotEnabled .rxByte)
  | .rsp => .refused (.eventNotEnabled .rxByte)

/-- `RxFail` (R139): the run ends at once, ATT is not incremented. -/
def rxFail (s : State) : Result :=
  match s.ph with
  | .scan => endRun false (s.observe (.rx s.devId .fail))
  | .pay => endRun false (s.observe (.rx s.devId .fail))
  | .idle => .refused (.eventNotEnabled .rxFail)
  | .tx => .refused (.eventNotEnabled .rxFail)
  | .rsp => .refused (.eventNotEnabled .rxFail)

/-- `RSP_VALID <- 0; PH <- PH_IDLE; CX <- Idle` (10_state.md R41): the return from an operation. It restores nothing
(60_exceptions.md R273). -/
def toIdle (s : State) : State := { s with rspValid := false, ph := .idle, cx := .idle }

/-- `RspTaken` (R41). -/
def rspTaken (s : State) : Result :=
  match s.ph with
  | .rsp => .next (toIdle (s.observe (.rsp s.response)))
  | .idle => .refused (.eventNotEnabled .rspTaken)
  | .tx => .refused (.eventNotEnabled .rspTaken)
  | .scan => .refused (.eventNotEnabled .rspTaken)
  | .pay => .refused (.eventNotEnabled .rspTaken)

/-- `Reset` (10_state.md R45, 70_reset_and_hazards.md R293): every register of the engine takes its reset value. What is
pending in the environment and the history stay (log 21). -/
def resetEvent (s : State) : State :=
  { State.resetWith s.cfg with
    rst := s.rst, reqs := s.reqs, takes := s.takes, txAns := s.txAns, rxAns := s.rxAns, txBuf := s.txBuf,
    rxBuf := s.rxBuf, hist := .rst :: s.hist, ret := s.ret }

/-! Transfers at the buffer grain (20_memory.md R61: a buffer call of length n is n consecutive byte transactions). -/

/-- Goes on with the next state, and stops where the first operation stops. -/
def andThen (o : Result) (k : State → Result) : Result :=
  match o with
  | .next s => k s
  | .fault r => .fault r
  | .refused r => .refused r

/-- n consecutive `TxDone`. -/
def sendRest : Nat → State → Result
  | 0, s => .next s
  | n + 1, s => andThen (txDone s) (sendRest n)

/-- The bytes as answers of the transport. -/
def byteAnswers (bs : List Byte) : List RxAns := bs.map .byte

/-- Consecutive `RxByte`, as long as the engine asks. What it does not ask for stays in the transport and is read next
(10_state.md R43, 40_frame_sync.md R137, log 23). -/
def deliver : List Byte → State → Result
  | [], s => .next s
  | b :: bs, s =>
      if s.rxWant then andThen (rxByte b s) (deliver bs)
      else .next { s with rxAns := byteAnswers (b :: bs) ++ s.rxAns }

end Sys2Proof.Machine
end

