-- ==== Sys2Proof/Machine/Frames.lean ====
section
/-! DEFINITION. The command frames on the TX port and the acknowledgments on the RX port (30_encoding.md R91, R92). -/

namespace Sys2Proof.Machine

/-- The engine is sending a frame of kind k (10_state.md R40: `tx_valid`, `tx_data = CT[KIND][TXI]`). -/
def State.offers (s : State) (k : Kind) : Bool := s.ph == .tx && s.kind == k

/-- The transport takes the rest of the frame of kind k whose template bytes satisfy `bytes`, as one buffer call
(20_memory.md R61): one `TxDone` for each byte from TXI to 7 (41_command_fsm.md R165, R166). A frame that is not on the port
cannot be taken (U17, log 12). -/
def takeFrame (k : Kind) (bytes : Bool) (s : State) : Result :=
  if s.offers k && bytes then sendRest (8 - s.txi.val) s else .refused (.frameNotOffered k)

/-- CT[k] holds the 16-bit operand v in bytes 4 and 5 (R66). -/
def State.holds16 (s : State) (k : Kind) (v : Half) : Bool :=
  s.ctByte k 4 == loByte v && s.ctByte k 5 == hiByte v

/-- CMD_K_ENTER (R163). -/
def execCmdEnter (s : State) : Result := takeFrame .enter true s

/-- CMD_K_EXIT (R172). -/
def execCmdExit (s : State) : Result := takeFrame .exit true s

/-- CMD_K_FORMAT (R193). -/
def execCmdFormat (sel : Byte) (s : State) : Result := takeFrame .format (s.ctByte .format 6 == sel) s

/-- CMD_K_PERIOD (R194). -/
def execCmdPeriod (ms : Half) (s : State) : Result := takeFrame .period (s.holds16 .period ms) s

/-- CMD_K_UNIT (R195). -/
def execCmdUnit (sel : Byte) (s : State) : Result := takeFrame .unit (s.ctByte .unit 6 == sel) s

/-- CMD_K_PATTERN (R196, R198). -/
def execCmdPattern (sel : Byte) (s : State) : Result := takeFrame .pattern (s.ctByte .pattern 6 == sel) s

/-- CMD_K_MODE (R199). -/
def execCmdMode (sel : Byte) (s : State) : Result := takeFrame .mode (s.ctByte .mode 6 == sel) s

/-- CMD_K_RANGE (R200). -/
def execCmdRange (mm : Half) (flag : Byte) (s : State) : Result :=
  takeFrame .range (s.holds16 .range mm && s.ctByte .range 6 == flag) s

/-- CMD_K_STR_LO (R201). -/
def execCmdStrLo (v : Half) (s : State) : Result := takeFrame .strLo (s.holds16 .strLo v) s

/-- CMD_K_STR_HI (R202). -/
def execCmdStrHi (v : Half) (s : State) : Result := takeFrame .strHi (s.holds16 .strHi v) s

/-- CMD_K_BAUD (R203). -/
def execCmdBaud (sel : Byte) (s : State) : Result := takeFrame .baud (s.ctByte .baud 6 == sel) s

/-- CMD_K_TRIGSRC (R204). -/
def execCmdTrigSrc (sel : Byte) (s : State) : Result := takeFrame .trigSrc (s.ctByte .trigSrc 6 == sel) s

/-- CMD_K_TRIGGER (R205). -/
def execCmdTrigger (s : State) : Result := takeFrame .trigger true s

/-- CMD_K_RESET (R206). -/
def execCmdReset (s : State) : Result := takeFrame .reset true s

/-- The acknowledgment with status byte st arrives (R92): four bytes on the RX port. -/
def deliverAck (st : Byte) (s : State) : Result := deliver [0x42#8, 0x57#8, 0x02#8, st] s

/-- ACK_SUCCESS (40_frame_sync.md R141). -/
def execAckSuccess (s : State) : Result := deliverAck 0x01#8 s

/-- ACK_ERROR_INSTRUCTION (R141). -/
def execAckErrorInstruction (s : State) : Result := deliverAck 0xFF#8 s

/-- ACK_ERROR_PARAMETER (R141). -/
def execAckErrorParameter (s : State) : Result := deliverAck 0x0F#8 s

/-- ACK_OTHER (R141): any other status byte. -/
def execAckOther (status : Byte) (s : State) : Result := deliverAck status s

end Sys2Proof.Machine
end

