-- ==== Sys2Proof/Machine/Measure.lean ====
section
/-! DEFINITION. READ_MEASUREMENT, the measurement frame, and the combinational procedures of the decoder (43_decoder.md). -/

namespace Sys2Proof.Machine

/-- READ_MEASUREMENT, its Req step (R230): a MEAS run starts, CX stays Idle, nothing is sent. -/
def execReadMeasurement (arg : Half) (s : State) : Result := whenIdle s fun s => startRun .meas (acceptReq 0 arg s)

/-- A measurement frame arrives (30_encoding.md R93): nine bytes on the RX port, and what they make the engine do. -/
def execMeasFrame (dLo dHi sLo sHi mode reserved checksum : Byte) (s : State) : Result :=
  deliver [0x59#8, 0x59#8, dLo, dHi, sLo, sHi, mode, reserved, checksum] s

/-- The procedure `Decode` (R231) on PB. Run by itself it may find any PB and SHORT (log 25). -/
def execDecodePayload (s : State) : Result := .next (decodeMeas s)

/-- The checksum validator CV (R235) on PB: CK_OK, and that register only when run by itself (DESIGN CHOICE, log 25). -/
def execChecksum (s : State) : Result := .next { s with ckOk := some (checksumOk s.pb) }

/-- The extraction mux FX (R232) on PB: READING and STRENGTH. The slices `mode`, `reserved` and `checksum` go to no
register (R232). DESIGN CHOICE (log 25): the row run by itself writes these two registers only; the mode classification and the
sentinel test that 00_scope.md R2 counts to FX are part of `Decode` (R231). -/
def execExtract (s : State) : Result :=
  .next { s with reading := some (readingOf s.pb), strength := some (strengthOf s.pb) }

end Sys2Proof.Machine
end

