-- ==== Sys2Proof/Machine/Procedures.lean ====
section
/-! DEFINITION. The procedures `Sync` (40_frame_sync.md R131), `SyncAck` (R141) and `Exec` (41_command_fsm.md R162) as their
big-step pseudocode, over the answers of the transport that State holds. The engine's own steps are the small-step rules of
Machine/Ops.lean; R135 and R162 say that the two are the same machine. Where the answers run out the procedure is blocked in
a transaction (20_memory.md R62, R63): the outcome is the state it waits in (log 9). DESIGN CHOICE (log 6): a procedure row
takes its bytes from the byte answers `rxAns` and `txAns` only; a buffer call pending in `rxBuf` or `txBuf` stays pending. -/

namespace Sys2Proof.Machine

/-- The outcome of a procedure: it returned a value to its caller, or it waits for an answer that State does not hold. -/
inductive ProcOut (α : Type) where
  | returns (a : α) (s : State)
  | waits (s : State)
  deriving DecidableEq, Repr

/-- One RX transaction of a procedure: the answer a, with `as` left to come. -/
def State.takeRx (s : State) (a : RxAns) (as : List RxAns) : State := { s with rxAns := as }.observe (.rx s.devId a)

/-- One TX transaction of a procedure: the answer a to `CT[KIND][TXI]`. -/
def State.takeTx (s : State) (a : TxAns) (as : List TxAns) : State :=
  { s with txAns := as }.observe (.tx s.devId s.txData a)

/-- The payload loop of R131. -/
def payloadLoop (n : Nat) : List RxAns → State → ProcOut SyncResult
  | as, s =>
    if n ≤ s.pc.val then .returns .found s
    else
      match as with
      | [] => .waits s
      | .fail :: as => .returns (.notFound .transportFailure) (s.takeRx .fail as)
      | .byte b :: as => payloadLoop n as ((s.takeRx (.byte b) as).pushPayload b)

/-- The search loop of R131, followed by the payload loop. The budget is tested before each read. -/
def searchLoop (m : FsMode) : List RxAns → State → ProcOut SyncResult
  | as, s =>
    if prefixLen m ≤ s.mc.val then payloadLoop (payloadLen m) as { s with ph := .pay }
    else if s.att = s.msa then .returns (.notFound .budgetExhausted) s
    else
      match as with
      | [] => .waits s
      | .fail :: as => .returns (.notFound .transportFailure) (s.takeRx .fail as)
      | .byte b :: as =>
          searchLoop m as (afterSearchByte b (s.takeRx (.byte b) as))

/-- `Sync(mode)` (R131). Its bytes come from `rxAns`; `rxBuf` is not read (DESIGN CHOICE, log 6). -/
def runSync (m : FsMode) (s : State) : ProcOut SyncResult := searchLoop m s.rxAns (startRun m s)

/-- `SyncAck()` (R141). -/
def runSyncAck (s : State) : ProcOut Status :=
  match runSync .ack s with
  | .waits s => .waits s
  | .returns .found s => .returns (ackStatus s.pb[0]) s
  | .returns (.notFound _) s => .returns .errorTransmission s

/-- The loop of `SendFrame` (R162) with n bytes left to send: `true` is Ok. -/
def sendLoop : Nat → State → ProcOut Bool
  | 0, s => .returns true s
  | n + 1, s =>
    let s := { s with txi := Fin.ofNat 8 (7 - n) }
    match s.txAns with
    | [] => .waits s
    | .fail :: as => .returns false (s.takeTx .fail as)
    | .done :: as => sendLoop n (s.takeTx .done as)

/-- `SendFrame(k)` (R162). Its answers come from `txAns`; `txBuf` is not read (DESIGN CHOICE, log 6). -/
def runSendFrame (k : Kind) (s : State) : ProcOut Bool := sendLoop 8 { s with kind := k, ph := .tx }

/-- `SendAndAck(k)` (R162). -/
def runSendAndAck (k : Kind) (s : State) : ProcOut Status :=
  match runSendFrame k s with
  | .waits s => .waits s
  | .returns false s => .returns .errorTransmission s
  | .returns true s => runSyncAck s

/-- Step 1 of `Exec` (R162) with n attempts left: `true` is entered. -/
def enterLoop : Nat → State → ProcOut Bool
  | 0, s => .returns false s
  | n + 1, s =>
    match runSendAndAck .enter { s with tries := s.tries + 1 } with
    | .waits s => .waits s
    | .returns .success s => .returns true s
    | .returns .errorInstruction s => enterLoop n s
    | .returns .errorParameter s => enterLoop n s
    | .returns .errorTransmission s => enterLoop n s

/-- Step 5 of `Exec` (R162): the exit frame, its outcome discarded. -/
def runExit (s : State) : ProcOut Status :=
  let s := { s with cx := .exitPending }
  let out : ProcOut Unit :=
    if s.cfg.exitAckScan then
      match runSendAndAck .exit s with
      | .waits s => .waits s
      | .returns _ s => .returns () s
    else
      match runSendFrame .exit s with
      | .waits s => .waits s
      | .returns _ s => .returns () s
  match out with
  | .waits s => .waits s
  | .returns _ s => .returns s.stat { s with cx := .done }

/-- Steps 3 to 5 of `Exec` (R162). -/
def runCommand (c : Kind) (s : State) : ProcOut Status :=
  match runSendAndAck c { s with cx := .commandSent } with
  | .waits s => .waits s
  | .returns st s =>
    let s := { s with stat := st }
    if c.noExit then .returns s.stat { s with cx := .done } else runExit s

/-- `Exec(C)` (R162). -/
def runExec (c : Kind) (s : State) : ProcOut Status :=
  match enterLoop enterTries { s with cmd := c, cx := .enterPending, tries := 0 } with
  | .waits s => .waits s
  | .returns false s => .returns .errorTransmission { s with cx := .failed }
  | .returns true s => runCommand c s

/-- A procedure called by itself: its result is left in `ret` (log 8). -/
def callProc {α : Type} (toRet : α → Ret) (o : ProcOut α) : Result :=
  match o with
  | .waits s => .next { s with ret := .waiting }
  | .returns a s => .next { s with ret := toRet a }

/-- The row Sync (R131). -/
def execSync (m : FsMode) (s : State) : Result := callProc .sync (runSync m s)

/-- The row SyncAck (40_frame_sync.md R141). -/
def execSyncAck (s : State) : Result := callProc .status (runSyncAck s)

/-- The row Exec (R162). -/
def execBracket (c : Kind) (s : State) : Result := callProc .status (runExec c s)

end Sys2Proof.Machine
end

