-- ==== Sys2Proof/Machine/Session.lean ====
section
/-! DEFINITION. The session operations GET_BUDGET and SET_BUDGET (44_session_ops.md), and the reserved operation code. -/

namespace Sys2Proof.Machine

/-- GET_BUDGET (R251). -/
def execGetBudget (arg : Half) (s : State) : Result :=
  whenIdle s fun s => respond .success { acceptReq 1 arg s with rspData := some (BitVec.ofNat 16 s.msa) }

/-- The value SET_BUDGET stores (R252): `arg[MSA_W-1:0]` when MSA_W < 16, with minimum 1 (log 14). -/
def budgetOf (c : Config) (arg : Half) : Nat := if c.narrow arg.toNat = 0 then 1 else c.narrow arg.toNat

/-- SET_BUDGET (R252). -/
def execSetBudget (arg : Half) (s : State) : Result :=
  whenIdle s fun s => respond .success { acceptReq 14 arg s with msa := budgetOf s.cfg arg }

/-- Operation code 15 (30_encoding.md R107): not defined by the spec, refused. -/
def execReservedOp15 (arg : Half) (_s : State) : Result := .refused (.reservedOperation arg)

end Sys2Proof.Machine
end

