-- ==== Sys2Proof/Machine/Setters.lean ====
section
/-! DEFINITION. The 12 command-issuing operations (42_setters.md). -/

namespace Sys2Proof.Machine

/-- The general form of a command-issuing operation (R190, R191): check, write the template, start the bracket, all in the
Req step. A locally rejected request performs no transaction and writes no template. -/
def commandOp (op : BitVec 4) (arg : Half) (valid : Bool) (write : State → State) (k : Kind) (s : State) : Result :=
  whenIdle s fun s =>
    let s := acceptReq op arg s
    if valid then bracketStart k (write s) else respond .errorParameter s

/-- SET_OUTPUT_FORMAT (R193). -/
def execSetOutputFormat (arg : Half) (s : State) : Result :=
  commandOp 2 arg true (fun s => s.packSel .format arg) .format s

/-- SET_OUTPUT_PERIOD (R194). -/
def execSetOutputPeriod (arg : Half) (s : State) : Result :=
  commandOp 3 arg (validPeriod arg) (fun s => s.pack16 .period arg) .period s

/-- SET_DISTANCE_UNIT (R195). -/
def execSetDistanceUnit (arg : Half) (s : State) : Result :=
  commandOp 4 arg true (fun s => s.packSel .unit arg) .unit s

/-- SET_DETECTION_PATTERN (R196). -/
def execSetDetectionPattern (arg : Half) (s : State) : Result :=
  commandOp 5 arg true (fun s => s.packSel .pattern arg) .pattern s

/-- SET_DISTANCE_MODE, its Req step: stage 0 (R197, R198). Stage 1 is started by `finish` (R199). -/
def execSetDistanceMode (arg : Half) (s : State) : Result :=
  commandOp 6 arg true (fun s => { s with stage := .pattern }.setCtByte .pattern 6 s.cfg.patternFix) .pattern s

/-- SET_RANGE_LIMIT (R200). -/
def execSetRangeLimit (arg : Half) (s : State) : Result :=
  commandOp 7 arg (validRange arg) (fun s => (s.pack16 .range arg).packFlag arg) .range s

/-- SET_STRENGTH_LOW (R201). -/
def execSetStrengthLow (arg : Half) (s : State) : Result :=
  commandOp 8 arg (validStrLo arg) (fun s => s.pack16 .strLo arg) .strLo s

/-- SET_STRENGTH_HIGH (R202). -/
def execSetStrengthHigh (arg : Half) (s : State) : Result :=
  commandOp 9 arg (validStrHi arg) (fun s => s.pack16 .strHi arg) .strHi s

/-- SET_BAUD_RATE (R203). -/
def execSetBaudRate (arg : Half) (s : State) : Result :=
  commandOp 10 arg true (fun s => s.packSel .baud arg) .baud s

/-- SET_TRIGGER_SOURCE (R204). -/
def execSetTriggerSource (arg : Half) (s : State) : Result :=
  commandOp 11 arg true (fun s => s.packSel .trigSrc arg) .trigSrc s

/-- TRIGGER_MEASUREMENT (R205): the template is fixed. -/
def execTriggerMeasurement (arg : Half) (s : State) : Result := commandOp 12 arg true id .trigger s

/-- RESET_DEVICE (R206): it resets the device, no register of the engine. -/
def execResetDevice (arg : Half) (s : State) : Result := commandOp 13 arg true id .reset s

end Sys2Proof.Machine
end

