-- ==== Sys2Proof/Machine/Dispatch.lean ====
section
/-! DEFINITION. One arm per constructor of `Instr`. -/

namespace Sys2Proof.Machine

def exec (i : Instr) (s : State) : Host.Outcome State Fault Refusal :=
  match i with
  | .readMeasurement arg => Sys2Proof.Machine.execReadMeasurement arg s
  | .getBudget arg => Sys2Proof.Machine.execGetBudget arg s
  | .setOutputFormat arg => Sys2Proof.Machine.execSetOutputFormat arg s
  | .setOutputPeriod arg => Sys2Proof.Machine.execSetOutputPeriod arg s
  | .setDistanceUnit arg => Sys2Proof.Machine.execSetDistanceUnit arg s
  | .setDetectionPattern arg => Sys2Proof.Machine.execSetDetectionPattern arg s
  | .setDistanceMode arg => Sys2Proof.Machine.execSetDistanceMode arg s
  | .setRangeLimit arg => Sys2Proof.Machine.execSetRangeLimit arg s
  | .setStrengthLow arg => Sys2Proof.Machine.execSetStrengthLow arg s
  | .setStrengthHigh arg => Sys2Proof.Machine.execSetStrengthHigh arg s
  | .setBaudRate arg => Sys2Proof.Machine.execSetBaudRate arg s
  | .setTriggerSource arg => Sys2Proof.Machine.execSetTriggerSource arg s
  | .triggerMeasurement arg => Sys2Proof.Machine.execTriggerMeasurement arg s
  | .resetDevice arg => Sys2Proof.Machine.execResetDevice arg s
  | .setBudget arg => Sys2Proof.Machine.execSetBudget arg s
  | .reservedOp15 arg => Sys2Proof.Machine.execReservedOp15 arg s
  -- command frames
  | .cmdEnter => Sys2Proof.Machine.execCmdEnter s
  | .cmdExit => Sys2Proof.Machine.execCmdExit s
  | .cmdFormat sel => Sys2Proof.Machine.execCmdFormat sel s
  | .cmdPeriod ms => Sys2Proof.Machine.execCmdPeriod ms s
  | .cmdUnit sel => Sys2Proof.Machine.execCmdUnit sel s
  | .cmdPattern sel => Sys2Proof.Machine.execCmdPattern sel s
  | .cmdMode sel => Sys2Proof.Machine.execCmdMode sel s
  | .cmdRange mm flag => Sys2Proof.Machine.execCmdRange mm flag s
  | .cmdStrLo v => Sys2Proof.Machine.execCmdStrLo v s
  | .cmdStrHi v => Sys2Proof.Machine.execCmdStrHi v s
  | .cmdBaud sel => Sys2Proof.Machine.execCmdBaud sel s
  | .cmdTrigSrc sel => Sys2Proof.Machine.execCmdTrigSrc sel s
  | .cmdTrigger => Sys2Proof.Machine.execCmdTrigger s
  | .cmdReset => Sys2Proof.Machine.execCmdReset s
  -- received frames
  | .ackSuccess => Sys2Proof.Machine.execAckSuccess s
  | .ackErrorInstruction => Sys2Proof.Machine.execAckErrorInstruction s
  | .ackErrorParameter => Sys2Proof.Machine.execAckErrorParameter s
  | .ackOther status => Sys2Proof.Machine.execAckOther status s
  | .measFrame dLo dHi sLo sHi mode reserved checksum => Sys2Proof.Machine.execMeasFrame dLo dHi sLo sHi mode reserved checksum s
  -- procedures
  | .sync m => Sys2Proof.Machine.execSync m s
  | .syncAck => Sys2Proof.Machine.execSyncAck s
  | .bracket c => Sys2Proof.Machine.execBracket c s
  | .decodePayload => Sys2Proof.Machine.execDecodePayload s
  | .checksum => Sys2Proof.Machine.execChecksum s
  | .extract => Sys2Proof.Machine.execExtract s

end Sys2Proof.Machine
end

