-- ==== Sys2Proof/Machine/Sequencer.lean ====
section
/-! DEFINITION. The sequencer: which event the engine takes next, by the phase PH (10_state.md R29, R41). Where a whole
instruction stands at the port the engine is waiting on (a request word; a frame handed over as one buffer call, 20_memory.md
R61), it is fetched, decoded and executed by `exec`; otherwise the next answer of the environment is one byte event. With no
answer pending the engine stays where it is (R41, R302, log 9). -/

namespace Sys2Proof.Machine

/-- PH_IDLE: the next pending request word, if any, is accepted (R41). -/
def idlePhase (s : State) : Result :=
  match s.reqs with
  | [] => .next s
  | w :: rest => exec (decodeReqWord w) { s with reqs := rest }

/-- The command frame on the TX port, fetched from CT[KIND] (20_memory.md R73). -/
def State.offeredFrame (s : State) : Instr := cmdInstr s.kind (s.template s.kind)

/-- PH_TX: the transport takes the rest of the frame as one buffer call, or answers for one byte. -/
def txPhase (s : State) : Result :=
  if s.txBuf then exec s.offeredFrame { s with txBuf := false }
  else
    match s.txAns with
    | [] => .next s
    | .done :: as => txDone { s with txAns := as }
    | .fail :: as => txFail { s with txAns := as }

/-- PH_SCAN and PH_PAY: the transport hands over a buffer, or answers with one byte or a failure. -/
def rxPhase (s : State) : Result :=
  match s.rxBuf with
  | b :: bs =>
      match decodeReceived s.cfg (b :: bs) with
      | some i => exec i { s with rxBuf := [] }
      | none => deliver (b :: bs) { s with rxBuf := [] }
  | [] =>
      match s.rxAns with
      | [] => .next s
      | .byte b :: as => rxByte b { s with rxAns := as }
      | .fail :: as => rxFail { s with rxAns := as }

/-- PH_RSP: the host takes the response when it is ready to. -/
def rspPhase (s : State) : Result :=
  match s.takes with
  | 0 => .next s
  | n + 1 => rspTaken { s with takes := n }

/-- One step of the sequencer, by phase. -/
def phaseStep (s : State) : Result :=
  match s.ph with
  | .idle => idlePhase s
  | .tx => txPhase s
  | .scan => rxPhase s
  | .pay => rxPhase s
  | .rsp => rspPhase s

/-- One step of the machine: the reset input is sampled first (R41: reset is enabled always; log 5). -/
def sampledStep (s : State) : Result :=
  match s.rst with
  | true :: rest => .next (resetEvent { s with rst := rest })
  | false :: rest => phaseStep { s with rst := rest }
  | [] => phaseStep s

/-! Placing a table word where the next step fetches (log 20). -/

/-- No reset at the next step. -/
def State.noResetNext (s : State) : State := { s with rst := false :: s.rst.tail }

/-- A request word at the head of the request port, the engine in PH_IDLE. -/
def placeRequest (w : BitVec 20) (s : State) : State :=
  { s with ph := .idle, cx := .idle, rspValid := false, reqs := w :: s.reqs }

/-- The operation whose bracket sends kind k, and its stage (30_encoding.md R100). -/
def opOfKind (k : Kind) : BitVec 4 × Stage × Kind :=
  match k with
  | .enter => (2#4, .pattern, .format)
  | .exit => (2#4, .pattern, .format)
  | .mode => (6#4, .mode, .mode)
  | .format | .period | .unit | .pattern | .range | .strLo | .strHi | .baud | .trigSrc | .trigger | .reset =>
      (k.code, .pattern, k)

/-- CX while a frame of kind k is sent (10_state.md R30). -/
def cxOfKind (k : Kind) : Cx :=
  match k with
  | .enter => .enterPending
  | .exit => .exitPending
  | .format | .period | .unit | .pattern | .mode | .range | .strLo | .strHi | .baud | .trigSrc | .trigger | .reset =>
      .commandSent

/-- The frame t of kind k in CT[k] and at its start on the TX port, the transport taking it whole. -/
def placeCommandFrame (k : Kind) (t : Template) (s : State) : State :=
  let (op, stage, cmd) := opOfKind k
  startFrame k { s with ct := s.ct.set k.idx t, op := op, stage := stage, cmd := cmd, tries := 1, cx := cxOfKind k,
                        rspValid := false, txBuf := true }

/-- The bytes of an acknowledgment about to be handed over in the run after the first enter frame. -/
def placeAck (bs : List Byte) (s : State) : State :=
  startRun .ack { bracketStart .format s with op := 2#4, txi := 7, rspValid := false, rxBuf := bs }

/-- The bytes of a measurement frame about to be handed over in a MEAS run. -/
def placeMeas (bs : List Byte) (s : State) : State :=
  startRun .meas { s with op := 0#4, cx := .idle, rspValid := false, rxBuf := bs }

/-- A table word at the place the next step fetches from. A word the decoder refuses leaves the state unchanged. -/
def placeTableWord (nbits w : Nat) (s : State) : State :=
  match decodeTableWord nbits w with
  | none => s
  | some i =>
    match reqOp i, cmdFrame Config.reference i, receivedBytes i with
    | some (op, arg), _, _ => placeRequest (reqWord op arg) s.noResetNext
    | none, some (k, t), _ => placeCommandFrame k t s.noResetNext
    | none, none, some bs => if formatOf i = some .meas9 then placeMeas bs s.noResetNext else placeAck bs s.noResetNext
    | none, none, none => s

end Sys2Proof.Machine
end

