-- ==== Sys2Proof/Safety.lean ====
section
/-! DEFINITION. What the spec says of every reachable state: the invariants of 10_state.md R23, R24, R25, R32,
40_frame_sync.md R143 and 41_command_fsm.md R179, R182, and the reachable states. -/

namespace Sys2Proof.Machine

/-- The command kind an operation's bracket executes (30_encoding.md R100, 10_state.md R30), by its stage. -/
def kindOfOp (op : BitVec 4) (stage : Stage) : Option Kind :=
  match op.toNat with
  | 2 => some .format
  | 3 => some .period
  | 4 => some .unit
  | 5 => some .pattern
  | 6 => some (match stage with | .pattern => .pattern | .mode => .mode)
  | 7 => some .range
  | 8 => some .strLo
  | 9 => some .strHi
  | 10 => some .baud
  | 11 => some .trigSrc
  | 12 => some .trigger
  | 13 => some .reset
  | _ => none

/-- The reachable (CX, PH) pairs (41_command_fsm.md R182). -/
def reachablePair : Cx → Phase → Bool
  | .idle, .tx => false
  | .idle, .idle | .idle, .scan | .idle, .pay | .idle, .rsp => true
  | .enterPending, .tx | .enterPending, .scan | .enterPending, .pay => true
  | .enterPending, .idle | .enterPending, .rsp => false
  | .commandSent, .tx | .commandSent, .scan | .commandSent, .pay => true
  | .commandSent, .idle | .commandSent, .rsp => false
  | .exitPending, .tx | .exitPending, .scan | .exitPending, .pay => true
  | .exitPending, .idle | .exitPending, .rsp => false
  | .done, .rsp | .failed, .rsp => true
  | .done, .idle | .done, .tx | .done, .scan | .done, .pay => false
  | .failed, .idle | .failed, .tx | .failed, .scan | .failed, .pay => false

/-- The kind of the frame being sent (10_state.md R30, 41_command_fsm.md R179). -/
def frameKind (cx : Cx) (cmd : Kind) : Option Kind :=
  match cx with
  | .enterPending => some .enter
  | .commandSent => some cmd
  | .exitPending => some .exit
  | .idle => none
  | .done => none
  | .failed => none

/-- The invariant of the sequencer. -/
structure SeqInv (s : State) : Prop where
  /-- The parameters meet the constraints of R8. -/
  cfgWf : s.cfg.Wf
  /-- No operation writes DEV_ID (R22). -/
  devId : s.devId = s.cfg.devId
  /-- `1 <= MSA` (R23). -/
  msaPos : 1 ≤ s.msa
  /-- `MSA <= 2^MSA_W - 1` (R23). -/
  msaWidth : s.msa < 2 ^ s.cfg.msaW
  /-- A byte that no setter writes keeps its reset value (R25, 42_setters.md R192). -/
  ctFixed : ∀ (k : Kind) (i : Fin 8), i ∉ k.writes → s.ctByte k i = (s.cfg.ctInit k)[i]
  /-- RSP_VALID is 1 exactly in PH_RSP (R32). -/
  rspValid : s.rspValid = true ↔ s.ph = .rsp
  /-- Only the pairs of R182 are reachable. -/
  pair : reachablePair s.cx s.ph = true
  /-- PH_TX implies the kind of the frame (R179). -/
  txKind : s.ph = .tx → frameKind s.cx s.cmd = some s.kind
  /-- EnterPending implies 1 ≤ TRY ≤ 3 (R179). -/
  triesPos : s.cx = .enterPending → 1 ≤ s.tries.val
  /-- Failed implies TRY = 3 (R179). -/
  triesFailed : s.cx = .failed → s.tries.val = 3
  /-- A run in a bracket is an ACK run, a run outside one is READ_MEASUREMENT's (R179). -/
  runMode : s.ph = .scan ∨ s.ph = .pay → (s.cx ≠ .idle → s.fsmode = .ack) ∧ (s.cx = .idle → s.fsmode = .meas ∧ s.op = 0#4)
  /-- CMD is the kind of the operation in progress, one of 2 to 13 (R30, R179). -/
  command : s.cx ≠ .idle → kindOfOp s.op s.stage = some s.cmd
  /-- No exit frame for the kinds of NOEXIT (R175). -/
  exitKind : s.cx = .exitPending → s.cmd.noExit = false
  /-- The exit frame's acknowledgment is scanned for only with EXIT_ACK_SCAN (R172). -/
  exitScan : s.cx = .exitPending → s.ph = .scan ∨ s.ph = .pay → s.cfg.exitAckScan = true
  /-- PH_SCAN: `0 ≤ MC < L`, `0 ≤ ATT < MSA` (40_frame_sync.md R143), and the MC matched bytes are among the ATT read. -/
  scan : s.ph = .scan → s.mc.val < prefixLen s.fsmode ∧ s.att < s.msa ∧ s.mc.val ≤ s.att
  /-- PH_PAY: `MC = L`, `0 ≤ PC < N`, `L ≤ ATT ≤ MSA` (R143). -/
  pay : s.ph = .pay →
    s.mc.val = prefixLen s.fsmode ∧ s.pc.val < payloadLen s.fsmode ∧ prefixLen s.fsmode ≤ s.att ∧ s.att ≤ s.msa

/-- All result registers but RSP_VALID are unwritten (10_state.md R41). -/
def ResultsUnwritten (s : State) : Prop :=
  s.reading = none ∧ s.strength = none ∧ s.short = none ∧ s.ckOk = none ∧ s.measValid = none ∧
    s.rspStatus = none ∧ s.rspData = none

/-- Which result registers hold a value (R24, R32, R34, 30_encoding.md R105): none while an operation is in progress; in
PH_RSP MEAS_VALID alone or with the measurement registers after READ_MEASUREMENT, RSP_STATUS after any other operation, and
RSP_DATA after GET_BUDGET only. MEAS_VALID = true implies what R26 says of it. -/
structure ResultInv (s : State) : Prop where
  busy : s.ph = .tx ∨ s.ph = .scan ∨ s.ph = .pay → ResultsUnwritten s
  measurement : s.ph = .rsp → s.op = 0#4 →
    s.rspStatus = none ∧ s.rspData = none ∧ s.measValid.isSome = true ∧
      (s.measValid = some true →
        s.ckOk = some true ∧ s.reading.isSome = true ∧ s.reading ≠ some sentinel ∧ s.strength.isSome = true ∧
          s.short.isSome = true)
  status : s.ph = .rsp → s.op ≠ 0#4 →
    s.rspStatus.isSome = true ∧ s.reading = none ∧ s.strength = none ∧ s.short = none ∧ s.ckOk = none ∧
      s.measValid = none ∧ (s.rspData.isSome = true ↔ s.op = 1#4)
  failed : s.cx = .failed → s.rspStatus = some .errorTransmission

/-- The history entries of bytes received by a device, oldest byte first, as the newest-first history holds them. -/
def receivedObs (dev : Nat) (bs : List Byte) : List Obs := (bs.map fun b => Obs.rx dev (.byte b)).reverse

/-- MC, PC and PB tell what was read last (40_frame_sync.md R143): in PH_SCAN the last MC bytes equal P[0..MC-1]; in PH_PAY
the last bytes are the prefix and then PB[0..PC-1]. -/
structure ReadInv (s : State) : Prop where
  scan : s.ph = .scan → s.hist.take s.mc.val = receivedObs s.devId ((prefixOf s.fsmode).take s.mc.val)
  pay : s.ph = .pay →
    s.hist.take (prefixLen s.fsmode + s.pc.val) =
      receivedObs s.devId (prefixOf s.fsmode ++ s.pb.toList.take s.pc.val)

/-- The states a run of any instance reaches, whatever its environment does: reset with any well-formed parameters, then
steps, the environment being free to have anything pending at any step. -/
inductive Reachable : State → Prop where
  | reset (c : Config) (h : c.Wf) : Reachable (State.resetWith c)
  | environment (s : State) (rst : List Bool) (reqs : List (BitVec 20)) (takes : Nat) (txAns : List TxAns)
      (rxAns : List RxAns) (txBuf : Bool) (rxBuf : List Byte) (h : Reachable s) :
      Reachable { s with rst := rst, reqs := reqs, takes := takes, txAns := txAns, rxAns := rxAns, txBuf := txBuf,
                         rxBuf := rxBuf }
  | step (s t : State) (h : Reachable s) (hs : step s = .next t) : Reachable t

/-- The bytes the transport took, oldest first: the TX stream (20_memory.md R60). -/
def txStream (s : State) : List Byte :=
  (s.hist.filterMap fun o =>
    match o with
    | .tx _ b .done => some b
    | .tx _ _ .fail => none
    | .req _ _ => none
    | .rx _ _ => none
    | .rsp _ => none
    | .rst => none).reverse

/-- The bytes received, oldest first: the RX stream (R60). -/
def rxStream (s : State) : List Byte :=
  (s.hist.filterMap fun o =>
    match o with
    | .rx _ (.byte b) => some b
    | .rx _ .fail => none
    | .tx _ _ _ => none
    | .req _ _ => none
    | .rsp _ => none
    | .rst => none).reverse

end Sys2Proof.Machine
end

