-- ==== Sys2Proof/Certificates/Slice0/Obligations.lean ====
section
/-! DEFINITION. The statements for the provers, from the numbered rules of spec/. `Sys2Proof.Claims` restates the effects the
rules name, in the rules' own terms and independently of Machine/Ops.lean, so that a statement is not the definition it is
about. An equation between whole states says the frame as well: what it does not name is unchanged. -/

namespace Sys2Proof.Claims

open Sys2Proof.Machine

/-! Effects the rules name. -/

/-- Reset is not asserted at the coming step (log 5). -/
def NoReset (s : State) : Prop := s.rst.head? ≠ some true

/-- The effect of `Req(op, arg)` before the operation's start rule (10_state.md R41). -/
def request (op : BitVec 4) (arg : Half) (s : State) : State :=
  { s with
    op := op, arg := arg
    reading := none, strength := none, short := none, ckOk := none, measValid := none, rspStatus := none, rspData := none
    hist := .req op arg :: s.hist }

/-- `Respond(st)` (41_command_fsm.md R161). -/
def responding (st : Status) (s : State) : State := { s with ph := .rsp, rspValid := true, rspStatus := some st }

/-- `BracketStart(C)` (R164). -/
def bracketing (c : Kind) (s : State) : State :=
  { s with cmd := c, cx := .enterPending, tries := 1, kind := .enter, txi := 0, ph := .tx }

/-- A frame of kind k is offered from its byte 0 (R170, R171). -/
def sending (k : Kind) (s : State) : State := { s with kind := k, txi := 0, ph := .tx }

/-- The start of a run (40_frame_sync.md R133). -/
def listening (m : FsMode) (s : State) : State := { s with fsmode := m, mc := 0, att := 0, pc := 0, ph := .scan }

/-- A TX transaction with its answer, in the history (20_memory.md R75). -/
def sentByte (a : TxAns) (s : State) : State := { s with hist := .tx s.devId (s.ctByte s.kind s.txi) a :: s.hist }

/-- An RX transaction with its answer, in the history. -/
def received (a : RxAns) (s : State) : State := { s with hist := .rx s.devId a :: s.hist }

/-- All result registers of 10_state.md R21 agree. -/
def SameResults (s t : State) : Prop :=
  t.reading = s.reading ∧ t.strength = s.strength ∧ t.short = s.short ∧ t.ckOk = s.ckOk ∧ t.measValid = s.measValid ∧
    t.rspStatus = s.rspStatus ∧ t.rspData = s.rspData

/-! The wire, in the numbers of 30_encoding.md. -/

/-- The magic bytes of a mode (R94). -/
def magic : FsMode → List Byte
  | .ack => [0x42#8, 0x57#8, 0x02#8]
  | .meas => [0x59#8, 0x59#8]

/-- The number of payload bytes (R94). -/
def payload : FsMode → Nat
  | .ack => 1
  | .meas => 7

/-- The Status a status byte stands for (R95). -/
def statusOf (st : Byte) : Status :=
  match st.toNat with
  | 0x01 => .success
  | 0xFF => .errorInstruction
  | 0x0F => .errorParameter
  | _ => .errorTransmission

/-- The code of a Status on the response port (10_state.md R33). -/
def statusCode : Status → Nat
  | .success => 0
  | .errorInstruction => 1
  | .errorParameter => 2
  | .errorTransmission => 3

/-- A read that depends on a draw gives every value of w bits, and no other. -/
def AnyValue (w : Nat) (read : Half → Half) : Prop :=
  (∀ d, (read d).toNat < 2 ^ w) ∧ ∀ n < 2 ^ w, ∃ d, (read d).toNat = n

/-- The bytes as answers of the transport. -/
def answers (bs : List Byte) : List RxAns := bs.map RxAns.byte

/-- An acknowledgment frame (R92). -/
def ackBytes (st : Byte) : List Byte := [0x42#8, 0x57#8, 0x02#8, st]

/-- n bytes that the transport takes. -/
def taken (n : Nat) : List TxAns := List.replicate n .done

/-- The exact sum of the first eight bytes of a measurement frame (43_decoder.md R235). -/
def sumOf (pb : Vector Byte 7) : Nat :=
  0x59 + 0x59 + (pb.toList.take 6).foldl (fun n b => n + b.toNat) 0

/-- MODE_SHORT of an instance, and MODE_LONG (30_encoding.md R96). -/
def modeShort (c : Config) : List Byte := [c.short0, c.short1]

/-- MODE_LONG. -/
def modeLong (c : Config) : List Byte := [0x07#8, c.long1]

/-- The registers `Decode(PB)` writes, and their values (43_decoder.md R231). -/
def Decoded (s t : State) : Prop :=
  (∃ r, t.reading = some r ∧ r.toNat = s.pb[0].toNat + 256 * s.pb[1].toNat) ∧
  (∃ g, t.strength = some g ∧ g.toNat = s.pb[2].toNat + 256 * s.pb[3].toNat) ∧
  t.ckOk = some (decide (sumOf s.pb % 256 = s.pb[6].toNat)) ∧
  (s.pb[4] ∈ modeShort s.cfg → t.short = some true) ∧
  (s.pb[4] ∉ modeShort s.cfg → s.pb[4] ∈ modeLong s.cfg → t.short = some false) ∧
  (s.pb[4] ∉ modeShort s.cfg → s.pb[4] ∉ modeLong s.cfg → t.short = s.short) ∧
  (∃ v, t.measValid = some v ∧
    (v = true ↔ sumOf s.pb % 256 = s.pb[6].toNat ∧ ¬ (s.pb[0] = 0xFF#8 ∧ s.pb[1] = 0xFF#8) ∧
      (s.pb[4] ∈ modeShort s.cfg ∨ s.pb[4] ∈ modeLong s.cfg)))

/-- t is s but for READING, STRENGTH, CK_OK, SHORT and MEAS_VALID. -/
def OnlyMeasurement (s t : State) : Prop :=
  t = { s with reading := t.reading, strength := t.strength, ckOk := t.ckOk, short := t.short, measValid := t.measValid }

/-! Setters. -/

/-- A write of template bytes: `Pack16`, `PackSel` and both (30_encoding.md R102). -/
abbrev Write := List (Fin 8 × Byte)

/-- The byte a write puts at an offset. -/
def Write.at? (w : Write) (i : Fin 8) : Option Byte := (w.find? fun p => p.1 == i).map Prod.snd

/-- `Pack16(k, v)`: byte 4 is `v[7:0]`, byte 5 is `v[15:8]`. -/
def pack (v : Half) : Write := [(4, BitVec.ofNat 8 v.toNat), (5, BitVec.ofNat 8 (v.toNat / 256))]

/-- `PackSel(k, v)`: byte 6 is `v[7:0]`. -/
def select (v : Half) : Write := [(6, BitVec.ofNat 8 v.toNat)]

/-- The request i, accepted in PH_IDLE, writes exactly the bytes w of CT[k], and starts the bracket of k: everything in the
Req step (42_setters.md R190, R191). -/
def StartsBracket (i : Instr) (op : BitVec 4) (arg : Half) (k : Kind) (w : Write) : Prop :=
  ∀ s : State, s.ph = .idle →
    ∃ t, exec i s = .next t ∧
      { t with ct := s.ct } = bracketing k (request op arg s) ∧
      ∀ (k' : Kind) (j : Fin 8), t.ctByte k' j = (if k' = k then w.at? j else none).getD (s.ctByte k' j)

/-- The request i is answered with ErrorParameter in the Req step, with nothing else done (R191, 60_exceptions.md E1). -/
def RejectedLocally (i : Instr) (op : BitVec 4) (arg : Half) : Prop :=
  ∀ s : State, s.ph = .idle → exec i s = .next (responding .errorParameter (request op arg s))

/-- The request word of R103: `op` in bits 19 to 16, `arg` in bits 15 to 0. -/
def word (op : Nat) (arg : Half) : BitVec 20 := BitVec.ofNat 20 (op * 0x10000 + arg.toNat)

/-- The kinds whose brackets a request runs when all goes well, in order: none for an operation that is no command or a
parameter that is rejected (30_encoding.md R104, 42_setters.md R207). -/
def brackets : Instr → List Kind
  | .setOutputFormat _ => [.format]
  | .setOutputPeriod a => if a.toNat % 10 = 0 then [.period] else []
  | .setDistanceUnit _ => [.unit]
  | .setDetectionPattern _ => [.pattern]
  | .setDistanceMode _ => [.pattern, .mode]
  | .setRangeLimit a => if a.toNat = 0 ∨ (300 ≤ a.toNat ∧ a.toNat ≤ 12000) then [.range] else []
  | .setStrengthLow a => if a.toNat ≤ 80 then [.strLo] else []
  | .setStrengthHigh a => if a.toNat ≤ 3000 then [.strHi] else []
  | .setBaudRate _ => [.baud]
  | .setTriggerSource _ => [.trigSrc]
  | .triggerMeasurement _ => [.trigger]
  | .resetDevice _ => [.reset]
  | .readMeasurement _ | .getBudget _ | .setBudget _ | .reservedOp15 _ => []
  | .cmdEnter | .cmdExit | .cmdFormat _ | .cmdPeriod _ | .cmdUnit _ | .cmdPattern _ | .cmdMode _ | .cmdRange _ _
  | .cmdStrLo _ | .cmdStrHi _ | .cmdBaud _ | .cmdTrigSrc _ | .cmdTrigger | .cmdReset => []
  | .ackSuccess | .ackErrorInstruction | .ackErrorParameter | .ackOther _ | .measFrame _ _ _ _ _ _ _ => []
  | .sync _ | .syncAck | .bracket _ | .decodePayload | .checksum | .extract => []

/-- NOEXIT (41_command_fsm.md R175). -/
def noExit (c : Kind) : Bool := c == .baud || c == .trigSrc || c == .trigger || c == .reset

/-- The frames of a bracket of kind c entered at the first attempt (R162, R175). -/
def bracketFrames (c : Kind) : List Kind := if noExit c then [.enter, c] else [.enter, c, .exit]

/-- The acknowledgments a bracket of kind c scans for when entered at the first attempt (R172). -/
def bracketAcks (cfg : Config) (c : Kind) : Nat := if noExit c then 2 else if cfg.exitAckScan then 3 else 2

/-- The bytes of frames of these kinds, as the templates of s hold them (30_encoding.md R91). -/
def frameBytes (s : State) (ks : List Kind) : List Byte := (ks.map fun k => (s.template k).toList).flatten

/-- In the step from s to t the send-and-acknowledge step of the frame being sent ended with Status r (41_command_fsm.md R167,
R168, 40_frame_sync.md R137, R139, R141): by the status byte of an acknowledgment, or by a failed transaction, or by the
budget's last byte. -/
def StepEnded (r : Status) (s t : State) : Prop :=
  ((s.ph = .scan ∨ s.ph = .pay) ∧ t.mc = 3 ∧ t.pc = 1 ∧ r = statusOf t.pb[0] ∧
    t.hist.head? = some (.rx s.devId (.byte t.pb[0]))) ∨
  (r = .errorTransmission ∧
    ((s.ph = .tx ∧ t.hist.head? = some (.tx s.devId (s.ctByte s.kind s.txi) .fail)) ∨
      ((s.ph = .scan ∨ s.ph = .pay) ∧ t.hist.head? = some (.rx s.devId .fail)) ∨
      (s.ph = .scan ∧ t.mc.val < 3 ∧ t.att = s.msa)))

/-- Without EXIT_ACK_SCAN: the last byte of the exit frame was taken (41_command_fsm.md R172). -/
def ExitSentUnscanned (s t : State) : Prop :=
  s.ph = .tx ∧ s.cfg.exitAckScan = false ∧ t.hist.head? = some (.tx s.devId (s.ctByte .exit 7) .done)

/-- n Success acknowledgments. -/
def successes (n : Nat) : List Byte := (List.replicate n (ackBytes 0x01#8)).flatten

/-- The TX transactions, newest first, of the bytes txi to 7 of the frame being sent, all taken. -/
def frameSent (s : State) : List Obs :=
  ((byteIndexes.drop s.txi.val).map fun j => Obs.tx s.devId (s.ctByte s.kind j) .done).reverse

/-- The transport's answers are the byte lists only: no reset, no buffer call. -/
def ByteGrain (s : State) : Prop := s.rst = [] ∧ s.txBuf = false ∧ s.rxBuf = []

/-- The outcome without the fields no rule of the engine may read (20_memory.md R75). -/
def forgetHistory (o : Result) : Result :=
  match o with
  | .next t => .next { t with hist := [], ret := .none }
  | .fault f => .fault f
  | .refused r => .refused r

end Sys2Proof.Claims

open Sys2Proof Sys2Proof.Machine Sys2Proof.Claims

/-! One step. -/

/-- 10_state.md R41: in PH_IDLE the pending request word is decoded and executed (log 4). -/
def Obligations.StepRunsThePendingRequest : Prop :=
  ∀ (s : State) (w : BitVec 20) (rest : List (BitVec 20)), NoReset s → s.ph = .idle → s.reqs = w :: rest →
    step s = exec (decodeReqWord w) { s with rst := s.rst.tail, reqs := rest }

/-- 20_memory.md R61, R73: in PH_TX a transport that takes the rest of the frame takes the frame CT[KIND] holds, and the step
is `exec` of that command frame (log 6). -/
def Obligations.StepRunsTheFrameOnTheTxPort : Prop :=
  ∀ (s : State) (i : Instr), NoReset s → s.ph = .tx → s.txBuf = true →
    cmdFrame s.cfg i = some (s.kind, s.template s.kind) →
    step s = exec i { s with rst := s.rst.tail, txBuf := false }

/-- 20_memory.md R61: while the engine asks for bytes, a buffer that holds a whole received frame is decoded and the step is
`exec` of that frame (log 6). -/
def Obligations.StepRunsTheReceivedFrame : Prop :=
  ∀ (s : State) (i : Instr) (bs : List Byte), NoReset s → (s.ph = .scan ∨ s.ph = .pay) → i.wf s.cfg = true →
    receivedBytes i = some bs → s.rxBuf = bs →
    step s = exec i { s with rst := s.rst.tail, rxBuf := [] }

/-- 10_state.md R41: with no buffer call pending, the next answer of the port the engine waits on is one event (log 4). -/
def Obligations.StepTakesOneByteEvent : Prop :=
  ∀ s : State, NoReset s →
    (s.ph = .tx → s.txBuf = false →
      (∀ as, s.txAns = .done :: as → step s = txDone { s with rst := s.rst.tail, txAns := as }) ∧
      (∀ as, s.txAns = .fail :: as → step s = txFail { s with rst := s.rst.tail, txAns := as })) ∧
    (s.ph = .scan ∨ s.ph = .pay → s.rxBuf = [] →
      (∀ b as, s.rxAns = .byte b :: as → step s = rxByte b { s with rst := s.rst.tail, rxAns := as }) ∧
      (∀ as, s.rxAns = .fail :: as → step s = rxFail { s with rst := s.rst.tail, rxAns := as })) ∧
    (s.ph = .rsp → ∀ n, s.takes = n + 1 → step s = rspTaken { s with rst := s.rst.tail, takes := n })

/-- 70_reset_and_hazards.md R302: with nothing pending at the port it waits on, the engine stays where it is (log 9). -/
def Obligations.StepWaitsForTheEnvironment : Prop :=
  ∀ s : State, NoReset s →
    (s.ph = .idle ∧ s.reqs = [] ∨ s.ph = .tx ∧ s.txBuf = false ∧ s.txAns = [] ∨
      (s.ph = .scan ∨ s.ph = .pay) ∧ s.rxBuf = [] ∧ s.rxAns = [] ∨ s.ph = .rsp ∧ s.takes = 0) →
    step s = .next { s with rst := s.rst.tail }

/-- 10_state.md R45, 70_reset_and_hazards.md R293: reset is taken in every state, abandons the operation without a response
and leaves the values of R45's table. What it keeps of the environment and the history is the model's choice (log 7, log 21). -/
def Obligations.ResetIsTakenInEveryState : Prop :=
  ∀ (s : State) (rest : List Bool), s.rst = true :: rest →
    ∃ t, step s = .next t ∧ t.devId = s.cfg.devId ∧ t.msa = 50 ∧
      (∀ k i, t.ctByte k i = (s.cfg.ctInit k)[i]) ∧
      (∀ k, t.ctByte k 0 = 0x42#8 ∧ t.ctByte k 1 = 0x57#8 ∧ t.ctByte k 2 = 0x02#8 ∧ t.ctByte k 3 = 0x00#8) ∧
      t.cx = .idle ∧ t.ph = .idle ∧ t.rspValid = false ∧ ResultsUnwritten t ∧
      t.cfg = s.cfg ∧ t.hist = .rst :: s.hist ∧ t.ret = s.ret ∧ t.rst = rest ∧ t.reqs = s.reqs ∧ t.takes = s.takes ∧
      t.txAns = s.txAns ∧ t.rxAns = s.rxAns ∧ t.txBuf = s.txBuf ∧ t.rxBuf = s.rxBuf

/-- 10_state.md R45: the state right after reset, for every instance; `State.reset` is the reference instance (log 2). -/
def Obligations.ResetStateValues : Prop :=
  (∀ c : Config, (State.resetWith c).cfg = c ∧ (State.resetWith c).devId = c.devId ∧ (State.resetWith c).msa = 50 ∧
    (∀ k i, (State.resetWith c).ctByte k i = (c.ctInit k)[i]) ∧ (State.resetWith c).cx = .idle ∧
    (State.resetWith c).ph = .idle ∧ (State.resetWith c).rspValid = false ∧ ResultsUnwritten (State.resetWith c)) ∧
  State.reset = State.resetWith Config.reference

/-! Encoding. -/

/-- 30_encoding.md R91 to R93, R103, R112: words written out from the formats. The command frames are the reference
instance's (log 2). -/
def Obligations.DecodedWordsOfEveryFormat : Prop :=
  decodeReqWord 0x1BEEF#20 = .getBudget 0xBEEF#16 ∧ decodeReqWord 0x701F4#20 = .setRangeLimit 500#16 ∧
  decodeReqWord 0xF0000#20 = .reservedOp15 0#16 ∧
  decode Config.reference .cmd8 [0x42, 0x57, 0x02, 0x00, 0xE8, 0x03, 0x00, 0x07] = .ok (.cmdPeriod 1000#16) ∧
  decode Config.reference .cmd8 [0x42, 0x57, 0x02, 0x00, 0xF4, 0x01, 0x01, 0x19] = .ok (.cmdRange 500#16 0x01#8) ∧
  decodeTableWord 32 0x01025742 = some .ackSuccess ∧ decodeTableWord 32 0xFF025742 = some .ackErrorInstruction ∧
  decodeTableWord 32 0x0F025742 = some .ackErrorParameter ∧ decodeTableWord 32 0x00025742 = some (.ackOther 0x00#8) ∧
  decodeTableWord 72 0xF000070_00A012C5959 = some (.measFrame 0x2C#8 0x01#8 0x0A#8 0x00#8 0x07#8 0x00#8 0xF0#8)

/-- 30_encoding.md R90 to R104: decoding the bytes of a well-formed instruction gives it back, with every operand (the
reserved row too). Command frames carry no kind (R91), so for them the templates must tell the kinds apart (R101). -/
def Obligations.DecodeOfEncode : Prop :=
  ∀ (c : Config) (i : Instr) (f : Format), formatOf i = some f → (i.wf c = true ∨ f = .req20) →
    (f = .cmd8 → c.templatesSeparate = true) → decode c f (encode c i) = .ok i

/-- 30_encoding.md R90 to R104: bytes that decode are the bytes of what they decode to: no bit of a frame is dropped. -/
def Obligations.EncodeOfDecode : Prop :=
  ∀ (c : Config) (f : Format) (bs : List Byte) (i : Instr), decode c f bs = .ok i →
    encode c i = bs ∧ formatOf i = some f

/-! Requests. -/

/-- 43_decoder.md R230, its Req step: a MEAS run starts, CX stays, nothing is sent. -/
def Obligations.ReadMeasurementStartsARun : Prop :=
  ∀ (s : State) (arg : Half), decodeReqWord (word 0 arg) = .readMeasurement arg ∧
    (s.ph = .idle → exec (.readMeasurement arg) s = .next (listening .meas (request 0#4 arg s)))

/-- 44_session_ops.md R251, 10_state.md R23, R32. For MSA of 2^16 or more, which needs MSA_W > 16, that the low 16 bits are
answered is the model's choice (log 14). -/
def Obligations.GetBudgetAnswersTheBudget : Prop :=
  (∀ (s : State) (arg : Half), s.ph = .idle →
    ∃ t, exec (.getBudget arg) s = .next t ∧ t.rspData = some (BitVec.ofNat 16 s.msa) ∧
      { t with rspData := none } = responding .success (request 1#4 arg s)) ∧
  (∀ s : State, 1 ≤ s.msa → s.msa < 2 ^ 16 → 1 ≤ (BitVec.ofNat 16 s.msa).toNat) ∧
  (∀ arg, decodeReqWord (word 1 arg) = .getBudget arg) ∧
  (∃ t, exec (.getBudget 0#16) State.reset = .next t ∧ t.rspData = some 50#16)

/-- 44_session_ops.md R252: the value stored is `arg[MSA_W-1:0]`, and 1 for 0. Where MSA_W < 16 and the argument is not 0 but
those bits are, only the minimum 1 is claimed (log 14). -/
def Obligations.SetBudgetStoresTheBudget : Prop :=
  (∀ (s : State) (arg : Half), s.ph = .idle →
    ∃ n, exec (.setBudget arg) s = .next (responding .success (request 14#4 arg { s with msa := n })) ∧ 1 ≤ n ∧
      (arg = 0#16 → n = 1) ∧ (arg.toNat % 2 ^ s.cfg.msaW ≠ 0 → n = arg.toNat % 2 ^ s.cfg.msaW)) ∧
  (∀ arg, decodeReqWord (word 14 arg) = .setBudget arg)

/-- 42_setters.md R193, R195, R196, R203, R204: every argument is accepted, byte 6 of the template becomes `arg[7:0]`. -/
def Obligations.EnumeratedSettersWriteByteSix : Prop :=
  ∀ arg : Half,
    StartsBracket (.setOutputFormat arg) 2#4 arg .format (select arg) ∧
    StartsBracket (.setDistanceUnit arg) 4#4 arg .unit (select arg) ∧
    StartsBracket (.setDetectionPattern arg) 5#4 arg .pattern (select arg) ∧
    StartsBracket (.setBaudRate arg) 10#4 arg .baud (select arg) ∧
    StartsBracket (.setTriggerSource arg) 11#4 arg .trigSrc (select arg)

/-- 42_setters.md R194, R201, R202, R207, R208: a valid argument is packed little-endian into bytes 4 and 5. -/
def Obligations.NumericSettersPackLittleEndian : Prop :=
  ∀ arg : Half,
    (arg.toNat % 10 = 0 → StartsBracket (.setOutputPeriod arg) 3#4 arg .period (pack arg)) ∧
    (arg.toNat ≤ 80 → StartsBracket (.setStrengthLow arg) 8#4 arg .strLo (pack arg)) ∧
    (arg.toNat ≤ 3000 → StartsBracket (.setStrengthHigh arg) 9#4 arg .strHi (pack arg))

/-- 42_setters.md R200, R207: 0 disables the limit, 300 to 12000 enables it; bytes 4, 5 and 6 are written. -/
def Obligations.SetRangeLimitWritesThreeBytes : Prop :=
  ∀ arg : Half, (arg.toNat = 0 ∨ (300 ≤ arg.toNat ∧ arg.toNat ≤ 12000)) →
    ∀ s : State, s.ph = .idle →
      ∃ t, exec (.setRangeLimit arg) s = .next t ∧
        { t with ct := s.ct } = bracketing .range (request 7#4 arg s) ∧
        ∀ (k : Kind) (j : Fin 8), t.ctByte k j =
          (if k = .range then
            Write.at? (pack arg ++ [(6, if arg.toNat = 0 then s.cfg.rlDis else s.cfg.rlEn)]) j
          else none).getD (s.ctByte k j)

/-- 42_setters.md R197, R198: stage 0 forces the detection pattern and runs its bracket; the mode template is not written. -/
def Obligations.SetDistanceModeForcesThePattern : Prop :=
  ∀ (arg : Half) (s : State), s.ph = .idle →
    ∃ t, exec (.setDistanceMode arg) s = .next t ∧
      { t with ct := s.ct } = bracketing .pattern (request 6#4 arg { s with stage := .pattern }) ∧
      ∀ (k : Kind) (j : Fin 8),
        t.ctByte k j = if k = .pattern ∧ j = 6 then s.cfg.patternFix else s.ctByte k j

/-- 42_setters.md R205, R206: the bracket starts and no template byte is written. -/
def Obligations.FixedCommandsWriteNothing : Prop :=
  ∀ (arg : Half) (s : State), s.ph = .idle →
    exec (.triggerMeasurement arg) s = .next (bracketing .trigger (request 12#4 arg s)) ∧
    exec (.resetDevice arg) s = .next (bracketing .reset (request 13#4 arg s))

/-- 42_setters.md R191, R207, 60_exceptions.md R261 E1: an invalid argument is answered with ErrorParameter, no template byte
is written and no transaction is made. -/
def Obligations.InvalidArgumentsAreRejectedLocally : Prop :=
  ∀ arg : Half,
    (arg.toNat % 10 ≠ 0 → RejectedLocally (.setOutputPeriod arg) 3#4 arg) ∧
    (arg.toNat ≠ 0 ∧ (arg.toNat < 300 ∨ 12000 < arg.toNat) → RejectedLocally (.setRangeLimit arg) 7#4 arg) ∧
    (80 < arg.toNat → RejectedLocally (.setStrengthLow arg) 8#4 arg) ∧
    (3000 < arg.toNat → RejectedLocally (.setStrengthHigh arg) 9#4 arg)

/-- 10_state.md R41, R42: a request while the engine is busy is not accepted and stays pending at the host (log 10). -/
def Obligations.RequestsWaitWhileTheEngineIsBusy : Prop :=
  (∀ (s : State) (i : Instr) (op : BitVec 4) (arg : Half), s.ph ≠ .idle → reqOp i = some (op, arg) → op ≠ 15#4 →
    exec i s = .next s) ∧
  (∀ s t : State, s.ph ≠ .idle → step s = .next t → t.reqs = s.reqs)

/-- 30_encoding.md R107: operation code 15 is refused, as a request and by the step that meets it. -/
def Obligations.ReservedOperationIsRefused : Prop :=
  ∀ (s : State) (arg : Half), exec (.reservedOp15 arg) s = .refused (.reservedOperation arg) ∧
    (∀ rest, NoReset s → s.ph = .idle → s.reqs = word 15 arg :: rest → step s = .refused (.reservedOperation arg))

/-! Frames. -/

/-- 40_frame_sync.md R135, R138, R141, 41_command_fsm.md R168: an acknowledgment that arrives in an ACK run with budget for its
prefix ends the send step with the Status of its status byte, and the operation goes on. -/
def Obligations.AcknowledgmentsEndTheSendStep : Prop :=
  ∀ (s : State) (i : Instr) (st : Byte), receivedBytes i = some (ackBytes st) →
    s.ph = .scan → s.fsmode = .ack → s.mc = 0 → (s.cx = .enterPending ∨ s.cx = .commandSent ∨ s.cx = .exitPending) →
    s.att + 3 ≤ s.msa → s.msa < 2 ^ s.cfg.msaW →
    ∃ t, exec i s = .next t ∧
      stepResult (statusOf st) { s with mc := 3, att := s.att + 3, pc := 1, pb := s.pb.set 0 st, ph := .pay,
                                        hist := receivedObs s.devId (ackBytes st) ++ s.hist } = .next t

/-- 40_frame_sync.md R135, R138, 43_decoder.md R230, R231: a measurement frame that arrives in a MEAS run with budget for its
prefix is decoded and the response is presented, in the step of its last byte. -/
def Obligations.MeasurementFramesAreDecoded : Prop :=
  ∀ (s : State) (dLo dHi sLo sHi mode reserved ck : Byte), s.ph = .scan → s.fsmode = .meas → s.mc = 0 →
    s.att + 2 ≤ s.msa → s.msa < 2 ^ s.cfg.msaW →
    ∃ t, exec (.measFrame dLo dHi sLo sHi mode reserved ck) s = .next t ∧
      t.pb = #v[dLo, dHi, sLo, sHi, mode, reserved, ck] ∧ Decoded { s with pb := t.pb } t ∧
      OnlyMeasurement { s with mc := 2, att := s.att + 2, pc := 7, pb := t.pb, ph := .rsp, rspValid := true,
                               hist := receivedObs s.devId (magic .meas ++ t.pb.toList) ++ s.hist } t

/-- 10_state.md R43 (log 12, log 23): a received frame the engine does not ask for stays in the transport, read next by the
next run; a command frame that is not on the TX port cannot be taken. -/
def Obligations.FramesAtAClosedPort : Prop :=
  (∀ (s : State) (i : Instr) (bs : List Byte), receivedBytes i = some bs → s.ph ≠ .scan → s.ph ≠ .pay →
    exec i s = .next { s with rxAns := answers bs ++ s.rxAns }) ∧
  (∀ (s : State) (i : Instr) (k : Kind) (t : Template), cmdFrame s.cfg i = some (k, t) → (s.ph ≠ .tx ∨ s.kind ≠ k) →
    exec i s = .refused (.frameNotOffered k))

/-- 41_command_fsm.md R165, R166, R168: the rest of a frame is sent in index order, each byte as CT[KIND] holds it, and the
acknowledgment run starts at the `TxDone` of byte 7. -/
def Obligations.CommandFramesAreSentWhole : Prop :=
  ∀ (s : State) (i : Instr), s.ph = .tx → cmdFrame s.cfg i = some (s.kind, s.template s.kind) →
    ¬ (s.cx = .exitPending ∧ s.cfg.exitAckScan = false) →
    exec i s = .next (listening .ack { s with txi := 7, hist := frameSent s ++ s.hist })

/-- 41_command_fsm.md R166, R172: without EXIT_ACK_SCAN the exit frame's last byte ends the bracket and nothing is read. -/
def Obligations.ExitFrameWithoutScanEndsTheBracket : Prop :=
  ∀ (s : State) (i : Instr), s.ph = .tx → cmdFrame s.cfg i = some (s.kind, s.template s.kind) →
    s.cx = .exitPending → s.cfg.exitAckScan = false →
    exec i s = .next (finish s.stat { s with txi := 7, cx := .done, hist := frameSent s ++ s.hist })

/-- 20_memory.md R61: a buffer call of length n is n consecutive byte transactions. Taking the rest of a frame at once is
taking its bytes one by one; a received frame at once is its bytes one by one, as far as the engine asks for them. -/
def Obligations.BufferCallsAreByteTransactions : Prop :=
  (∀ (s t : State) (i : Instr) (k : Kind) (f : Template), ByteGrain s → cmdFrame s.cfg i = some (k, f) →
    exec i s = .next t →
    core.run (8 - s.txi.val) { s with txAns := taken (8 - s.txi.val) ++ s.txAns } = .next t) ∧
  (∀ (s t : State) (i : Instr) (bs : List Byte), ByteGrain s → receivedBytes i = some bs → exec i s = .next t →
    ∃ n, n ≤ bs.length ∧ core.run n { s with rxAns := answers bs ++ s.rxAns } = .next t)

/-! The events of 10_state.md R41. -/

/-- 41_command_fsm.md R166, R167: the TX step, in its three cases, and a failed TX transaction. That a failure cuts the frame
short and skips the scan is the spec's decision D13 (log 15). -/
def Obligations.TxAnswersMoveTheFrame : Prop :=
  ∀ s : State, s.ph = .tx →
    (∀ j : Fin 8, s.txi.val < 7 → j.val = s.txi.val + 1 → txDone s = .next { s with txi := j, hist := .tx s.devId (s.ctByte s.kind s.txi) .done :: s.hist }) ∧
    (s.txi.val = 7 → s.cx = .exitPending → s.cfg.exitAckScan = false →
      txDone s = stepResult .success (sentByte .done s)) ∧
    (s.txi.val = 7 → ¬ (s.cx = .exitPending ∧ s.cfg.exitAckScan = false) →
      txDone s = .next (listening .ack (sentByte .done s))) ∧
    txFail s = stepResult .errorTransmission (sentByte .fail s)

/-- 41_command_fsm.md R170, R171, R172, R175: what one send-and-acknowledge step's Status does, by CX. -/
def Obligations.StepResultByCx : Prop :=
  ∀ (s : State) (r : Status),
    (s.cx = .enterPending →
      (r = .success → stepResult r s = .next (sending s.cmd { s with cx := .commandSent })) ∧
      (∀ n : Fin 4, r ≠ .success → s.tries.val < 3 → n.val = s.tries.val + 1 →
        stepResult r s = .next (sending .enter { s with tries := n })) ∧
      (r ≠ .success → s.tries.val = 3 → stepResult r s = .next (finish .errorTransmission { s with cx := .failed }))) ∧
    (s.cx = .commandSent →
      (noExit s.cmd = true → stepResult r s = .next (finish r { s with stat := r, cx := .done })) ∧
      (noExit s.cmd = false → stepResult r s = .next (sending .exit { s with stat := r, cx := .exitPending }))) ∧
    (s.cx = .exitPending → stepResult r s = .next (finish s.stat { s with cx := .done }))

/-- 41_command_fsm.md R173, 42_setters.md R198, R199: the end of a bracket. That any Status but Success fails stage 0, and that
the answer is then ErrorTransmission, are the spec's own decisions D15 and C5 (log 15). The return of CX to Idle is
ResponseTakenReturnsToIdle. -/
def Obligations.FinishEndsTheBracket : Prop :=
  ∀ (s : State) (st : Status),
    (s.op = 6#4 → s.stage = .pattern → st = .success →
      ∃ t, finish st s = t ∧ { t with ct := s.ct } = bracketing .mode { s with stage := .mode } ∧
        ∀ (k : Kind) (j : Fin 8), t.ctByte k j =
          if k = .mode ∧ j = 6 then BitVec.ofNat 8 s.arg.toNat else s.ctByte k j) ∧
    (s.op = 6#4 → s.stage = .pattern → st ≠ .success → finish st s = responding .errorTransmission s) ∧
    (¬ (s.op = 6#4 ∧ s.stage = .pattern) → finish st s = responding st s)

/-- 40_frame_sync.md R134, R135, R136: the search step. The premises are R143's. -/
def Obligations.SearchStepMatchesOrRestarts : Prop :=
  ∀ (s : State) (b : Byte) (mc : Fin 4), s.ph = .scan → s.att < s.msa → s.msa < 2 ^ s.cfg.msaW →
    s.mc.val < (magic s.fsmode).length →
    mc.val = (if (magic s.fsmode)[s.mc.val]? = some b then s.mc.val + 1 else 0) →
    (mc.val = (magic s.fsmode).length →
      rxByte b s = .next (received (.byte b) { s with att := s.att + 1, mc := mc, pc := 0, ph := .pay })) ∧
    (mc.val ≠ (magic s.fsmode).length → s.att + 1 = s.msa →
      rxByte b s = endRun false (received (.byte b) { s with att := s.att + 1, mc := mc })) ∧
    (mc.val ≠ (magic s.fsmode).length → s.att + 1 ≠ s.msa →
      rxByte b s = .next (received (.byte b) { s with att := s.att + 1, mc := mc }))

/-- 40_frame_sync.md R138, R139: the payload step, and a failed RX transaction in either phase. That a failure ends the run is
the spec's decision D12 (log 15). -/
def Obligations.PayloadStepAndReceiveFailure : Prop :=
  (∀ (s : State) (b : Byte) (h : s.pc.val < 7) (p : Fin 8), s.ph = .pay → p.val = s.pc.val + 1 →
    (p.val = payload s.fsmode →
      rxByte b s = endRun true (received (.byte b) { s with pb := s.pb.set s.pc.val b h, pc := p })) ∧
    (p.val ≠ payload s.fsmode →
      rxByte b s = .next (received (.byte b) { s with pb := s.pb.set s.pc.val b h, pc := p }))) ∧
  (∀ s : State, s.ph = .scan ∨ s.ph = .pay → rxFail s = endRun false (received .fail s))

/-- 43_decoder.md R239: no measurement writes MEAS_VALID only, with false. Beside it what the other ends of a run do, for which
no rule is cited as stated whole (40_frame_sync.md R140, R141, 43_decoder.md R230, R231). Which events lead to which end are
SearchStepMatchesOrRestarts and PayloadStepAndReceiveFailure. -/
def Obligations.EndOfARun : Prop :=
  ∀ s : State,
    (s.fsmode = .ack →
      endRun true s = stepResult (statusOf s.pb[0]) s ∧ endRun false s = stepResult .errorTransmission s) ∧
    (s.fsmode = .meas →
      endRun false s = .next { s with measValid := some false, rspValid := true, ph := .rsp } ∧
      ∃ t, endRun true s = .next t ∧ Decoded s t ∧ OnlyMeasurement { s with rspValid := true, ph := .rsp } t)

/-- 10_state.md R41, row `RspTaken`: the return to PH_IDLE; the result registers keep their values. -/
def Obligations.ResponseTakenReturnsToIdle : Prop :=
  ∀ s : State, s.ph = .rsp →
    ∃ r, rspTaken s = .next { s with rspValid := false, ph := .idle, cx := .idle, hist := .rsp r :: s.hist } ∧
      r.status = s.rspStatus ∧ r.data = s.rspData ∧ r.measValid = s.measValid ∧ r.reading = s.reading ∧
      r.strength = s.strength ∧ r.short = s.short ∧ r.ckOk = s.ckOk

/-- 10_state.md R24, R33: the host's read of a written result register gives its value, a boolean as 0 or 1 and a Status as
its code. The read of an unwritten one gives no value the spec names: every value of the register's width is possible, which
is one of the two treatments R24 offers (log 16). -/
def Obligations.UnwrittenResultsHaveNoValue : Prop :=
  ∀ s : State,
    (∀ d : Half,
      (∀ v, s.reading = some v → hostRead .reading d s = v) ∧
      (∀ v, s.strength = some v → hostRead .strength d s = v) ∧
      (∀ v, s.rspData = some v → hostRead .rspData d s = v) ∧
      (∀ b, s.short = some b → (hostRead .short d s).toNat = if b then 1 else 0) ∧
      (∀ b, s.ckOk = some b → (hostRead .ckOk d s).toNat = if b then 1 else 0) ∧
      (∀ b, s.measValid = some b → (hostRead .measValid d s).toNat = if b then 1 else 0) ∧
      (∀ st, s.rspStatus = some st → (hostRead .rspStatus d s).toNat = statusCode st)) ∧
    (s.reading = none → AnyValue 16 fun d => hostRead .reading d s) ∧
    (s.strength = none → AnyValue 16 fun d => hostRead .strength d s) ∧
    (s.rspData = none → AnyValue 16 fun d => hostRead .rspData d s) ∧
    (s.short = none → AnyValue 1 fun d => hostRead .short d s) ∧
    (s.ckOk = none → AnyValue 1 fun d => hostRead .ckOk d s) ∧
    (s.measValid = none → AnyValue 1 fun d => hostRead .measValid d s) ∧
    (s.rspStatus = none → AnyValue 2 fun d => hostRead .rspStatus d s)

/-! The decoder. -/

/-- 43_decoder.md R231, R233, R234, R236, R237, R238: `Decode(PB)` writes the measurement registers and nothing else; it is run
in the step of the byte that delivers PB[6]. The first clause runs the row Decode by itself in any state: that it then uses
whatever PB holds, and leaves SHORT as it finds it for an unknown mode byte (R237 says only: not written), is the model's
choice (log 25). -/
def Obligations.DecodeWritesTheMeasurement : Prop :=
  (∀ s : State, ∃ t, exec .decodePayload s = .next t ∧ Decoded s t ∧ OnlyMeasurement s t) ∧
  (∀ (s : State) (b : Byte), s.ph = .pay → s.fsmode = .meas → s.pc = 6 →
    ∃ t, rxByte b s = .next t ∧ Decoded { s with pb := s.pb.set 6 b } t ∧
      OnlyMeasurement
        (received (.byte b) { s with pb := s.pb.set 6 b, pc := 7, rspValid := true, ph := .rsp }) t)

/-- 43_decoder.md R235: CK_OK is true exactly when the low 8 bits of the sum equal PB[6]. That the row Checksum, run by itself,
writes nothing else is the model's choice (log 25). -/
def Obligations.ChecksumComparesTheSum : Prop :=
  ∀ s : State, ∃ v, exec .checksum s = .next { s with ckOk := some v } ∧
    (v = true ↔ BitVec.ofNat 8 (sumOf s.pb) = s.pb[6])

/-- 43_decoder.md R232: with the payload as a 56-bit vector, READING and STRENGTH are fixed slices of it. That the row Extract,
run by itself, writes these two and leaves SHORT, CK_OK and MEAS_VALID as they are is the model's choice (log 25). -/
def Obligations.ExtractSelectsFixedSlices : Prop :=
  ∀ (s : State) (pay : BitVec 56), (∀ j : Fin 7, s.pb[j] = pay.extractLsb' (8 * j.val) 8) →
    exec .extract s =
      .next { s with reading := some (pay.extractLsb' 0 16), strength := some (pay.extractLsb' 16 16) }

/-- 43_decoder.md R240, 95_test_vectors.md section 4: the checksum detects every change of one byte. -/
def Obligations.EverySingleByteChangeIsDetected : Prop :=
  ∀ (s t : State) (j : Fin 7) (b : Byte), exec .checksum s = .next t → t.ckOk = some true → b ≠ s.pb[j] →
    ∃ u, exec .checksum { s with pb := s.pb.set j.val b j.isLt } = .next u ∧ u.ckOk = some false

/-! Procedures. -/

/-- 40_frame_sync.md R131, R142: a frame behind garbage that starts no partial match is found if the budget covers the garbage
and the prefix; the payload is in PB and the bytes after the frame are unread. -/
def Obligations.SyncFindsTheFrameBehindGarbage : Prop :=
  ∀ (s : State) (m : FsMode) (g p : List Byte) (rest : List RxAns), (∀ b ∈ g, (magic m)[0]? ≠ some b) →
    p.length = payload m → g.length + (magic m).length ≤ s.msa → s.msa < 2 ^ s.cfg.msaW →
    s.rxAns = answers (g ++ magic m ++ p) ++ rest →
    ∃ t, exec (.sync m) s = .next t ∧ t.mc.val = (magic m).length ∧ t.pc.val = payload m ∧
      t.pb.toList = p ++ s.pb.toList.drop (payload m) ∧
      t = { s with fsmode := m, mc := t.mc, att := g.length + (magic m).length, pc := t.pc, pb := t.pb, ph := .pay,
                   rxAns := rest, hist := receivedObs s.devId (g ++ magic m ++ p) ++ s.hist, ret := .sync .found }

/-- 40_frame_sync.md R131, R137, R139, R142: without the budget for garbage and prefix, exactly MSA bytes are read and the run
is `NotFound(BudgetExhausted)`; a failed transaction ends it with `NotFound(TransportFailure)`. -/
def Obligations.SyncEndsWithoutAFrame : Prop :=
  (∀ (s : State) (m : FsMode) (g p : List Byte) (rest : List RxAns), (∀ b ∈ g, (magic m)[0]? ≠ some b) →
    s.msa < g.length + (magic m).length → s.msa < 2 ^ s.cfg.msaW → s.rxAns = answers (g ++ magic m ++ p) ++ rest →
    ∃ t, exec (.sync m) s = .next t ∧ t.mc.val = s.msa - g.length ∧
      t = { s with fsmode := m, mc := t.mc, att := s.msa, pc := 0, ph := .scan,
                   rxAns := s.rxAns.drop s.msa,
                   hist := receivedObs s.devId ((g ++ magic m ++ p).take s.msa) ++ s.hist,
                   ret := .sync (.notFound .budgetExhausted) }) ∧
  (∀ (s : State) (m : FsMode) (g : List Byte) (rest : List RxAns), (∀ b ∈ g, (magic m)[0]? ≠ some b) →
    g.length < s.msa → s.msa < 2 ^ s.cfg.msaW → s.rxAns = answers g ++ .fail :: rest →
    exec (.sync m) s = .next { s with fsmode := m, mc := 0, att := g.length, pc := 0, ph := .scan, rxAns := rest,
                                      hist := .rx s.devId .fail :: (receivedObs s.devId g ++ s.hist),
                                      ret := .sync (.notFound .transportFailure) })

/-- 40_frame_sync.md R141, 95_test_vectors.md section 4: `SyncAck` on garbage without 0x42 and then `42 57 02 st` returns the
Status of st if and only if at most MSA - 3 bytes precede it, else ErrorTransmission. -/
def Obligations.SyncAckMapsTheStatusByte : Prop :=
  ∀ (s : State) (g : List Byte) (st : Byte) (rest : List RxAns), (∀ b ∈ g, b ≠ 0x42#8) → s.msa < 2 ^ s.cfg.msaW →
    s.rxAns = answers (g ++ ackBytes st) ++ rest →
    ∃ t, exec .syncAck s = .next t ∧
      (g.length + 3 ≤ s.msa → t.ret = .status (statusOf st) ∧ t.rxAns = rest ∧ t.pb[0] = st) ∧
      (s.msa < g.length + 3 → t.ret = .status .errorTransmission ∧ t.rxAns = s.rxAns.drop s.msa) ∧
      t = { s with fsmode := .ack, mc := t.mc, att := t.att, pc := t.pc, pb := t.pb, ph := t.ph, rxAns := t.rxAns,
                   hist := t.hist, ret := t.ret }

/-- 41_command_fsm.md R162, R175, R176, R178: `Exec(C)` entered at the first attempt sends enter, command and (for kinds not in
NOEXIT) exit, and returns the Status of the command's own acknowledgment. -/
def Obligations.ExecReturnsTheCommandsStatus : Prop :=
  ∀ (s : State) (c : Kind) (st x : Byte) (txs : List TxAns) (rest : List RxAns), c.isCommand = true → 3 ≤ s.msa →
    s.msa < 2 ^ s.cfg.msaW → s.txAns = taken (8 * (bracketFrames c).length) ++ txs →
    s.rxAns =
      answers ((ackBytes 0x01#8 ++ ackBytes st ++ ackBytes x).take (4 * bracketAcks s.cfg c)) ++ rest →
    ∃ t, exec (.bracket c) s = .next t ∧ t.ret = .status (statusOf st) ∧
      txStream t = txStream s ++ frameBytes s (bracketFrames c) ∧
      t = { s with cmd := c, cx := .done, tries := 1, stat := statusOf st, kind := t.kind, txi := 7, ph := t.ph,
                   fsmode := .ack, mc := 3, att := 3, pc := 1, pb := t.pb, txAns := txs, rxAns := rest, hist := t.hist,
                   ret := t.ret }

/-- 41_command_fsm.md R162, R163, R174: three entry attempts that are not acknowledged with Success, whatever they are
acknowledged with, end in Failed and ErrorTransmission; no command frame and no exit frame is sent. -/
def Obligations.ExecGivesUpAfterThreeEntries : Prop :=
  ∀ (s : State) (c : Kind) (a b d : Byte) (txs : List TxAns) (rest : List RxAns), c.isCommand = true →
    a ≠ 0x01#8 → b ≠ 0x01#8 → d ≠ 0x01#8 → 3 ≤ s.msa → s.msa < 2 ^ s.cfg.msaW → s.txAns = taken 24 ++ txs →
    s.rxAns = answers (ackBytes a ++ ackBytes b ++ ackBytes d) ++ rest →
    ∃ t, exec (.bracket c) s = .next t ∧ t.ret = .status .errorTransmission ∧
      txStream t = txStream s ++ frameBytes s [.enter, .enter, .enter] ∧
      t = { s with cmd := c, cx := .failed, tries := 3, kind := .enter, txi := 7, ph := t.ph, fsmode := .ack, mc := 3,
                   att := 3, pc := 1, pb := t.pb, txAns := txs, rxAns := rest, hist := t.hist, ret := t.ret }

/-- 41_command_fsm.md R162: the small-step rules are the same machine as `Exec`, cut at every transaction. Where `Exec(C)`
returns st, the steps from `BracketStart(C)` reach `Finish(st)` with the same registers and the same transactions. -/
def Obligations.ExecIsTheSmallStepMachine : Prop :=
  ∀ (s t : State) (c : Kind) (st : Status), ByteGrain s → 1 ≤ s.msa → exec (.bracket c) s = .next t →
    t.ret = .status st → ∃ n, core.run n (bracketing c s) = .next (finish st { t with ret := s.ret })

/-- 40_frame_sync.md R131, R135: the search and payload steps are the loop of `Sync`. Where `Sync(mode)` returns, the steps from
the start of the run end it with the same result, registers and transactions. -/
def Obligations.SyncIsTheSmallStepMachine : Prop :=
  ∀ (s t : State) (m : FsMode) (r : SyncResult), ByteGrain s → 1 ≤ s.msa → exec (.sync m) s = .next t → t.ret = .sync r →
    ∃ n, core.run n (listening m s) = endRun (decide (r = .found)) { t with ret := s.ret }

/-! Invariants and whole-machine rules. -/

/-- 10_state.md R23, R25, R32, 40_frame_sync.md R143, 41_command_fsm.md R179, R182: every step keeps the invariant of the
sequencer, whatever the environment answers. -/
def Obligations.StepKeepsTheInvariant : Prop := ∀ s t : State, SeqInv s → step s = .next t → SeqInv t

/-- 10_state.md R45: the invariants hold right after reset, for every instance that meets the constraints of 00_scope.md R8,
and the reference instance meets them (log 1). -/
def Obligations.InvariantsHoldAfterReset : Prop :=
  (∀ c : Config, c.Wf → SeqInv (State.resetWith c) ∧ ResultInv (State.resetWith c) ∧ ReadInv (State.resetWith c)) ∧
  SeqInv State.reset

/-- 10_state.md R24, R26, R32, R34, 30_encoding.md R105: every step keeps what is said of which result registers hold a
value. -/
def Obligations.StepKeepsTheResultInvariant : Prop :=
  ∀ s t : State, SeqInv s → ResultInv s → step s = .next t → ResultInv t

/-- 40_frame_sync.md R143: every step keeps that MC and PB tell the bytes read last. -/
def Obligations.StepKeepsTheReadInvariant : Prop :=
  ∀ s t : State, SeqInv s → ReadInv s → step s = .next t → ReadInv t

/-- 10_state.md R25, 20_memory.md R73, 42_setters.md R192, R199: a step without reset changes a template byte only where a
setter of that kind writes, in the Req step of its operation or at the end of stage 0 of SET_DISTANCE_MODE. -/
def Obligations.OnlySettersWriteTheTable : Prop :=
  ∀ (s t : State) (k : Kind) (j : Fin 8), SeqInv s → NoReset s → step s = .next t → t.ctByte k j ≠ s.ctByte k j →
    j ∈ k.writes ∧
    ((s.ph = .idle ∧ ∃ (op : Nat) (arg : Half) (rest : List (BitVec 20)), op < 16 ∧ s.reqs = word op arg :: rest ∧
        kindOfOp (BitVec.ofNat 4 op) .pattern = some k) ∨
      (k = .mode ∧ s.op = 6#4 ∧ s.stage = .pattern ∧ s.cx = .exitPending ∧ s.stat = .success))

/-- 10_state.md R22, R23, R42, 44_session_ops.md R253: only SET_BUDGET in PH_IDLE changes MSA, nothing changes DEV_ID or the
parameters. -/
def Obligations.OnlySetBudgetChangesTheBudget : Prop :=
  ∀ s t : State, step s = .next t → t.cfg = s.cfg ∧
    (NoReset s → t.devId = s.devId ∧
      (t.msa ≠ s.msa → s.ph = .idle ∧ ∃ (arg : Half) (rest : List (BitVec 20)), s.reqs = word 14 arg :: rest))

/-- 41_command_fsm.md R181: every edge of CX, with when it is taken. The edges ExitPending to Done and Done to EnterPending of
the first bracket of SET_DISTANCE_MODE are one step (R173). -/
def Obligations.EdgesOfCx : Prop :=
  ∀ s t : State, SeqInv s → NoReset s → step s = .next t → t.cx ≠ s.cx →
    (s.cx = .idle ∧ t.cx = .enterPending ∧ s.ph = .idle ∧
      ∃ w rest, s.reqs = w :: rest ∧ (brackets (decodeReqWord w)).head? = some t.cmd) ∨
    (s.cx = .enterPending ∧ t.cx = .commandSent ∧ StepEnded .success s t) ∨
    (s.cx = .enterPending ∧ t.cx = .failed ∧ s.tries.val = 3 ∧ ∃ r, r ≠ .success ∧ StepEnded r s t) ∨
    (s.cx = .commandSent ∧ t.cx = .exitPending ∧ noExit s.cmd = false ∧ StepEnded t.stat s t) ∨
    (s.cx = .commandSent ∧ t.cx = .done ∧ noExit s.cmd = true ∧ StepEnded t.stat s t) ∨
    (s.cx = .exitPending ∧ t.cx = .done ∧ ((∃ r, StepEnded r s t) ∨ ExitSentUnscanned s t)) ∨
    (s.cx = .exitPending ∧ t.cx = .enterPending ∧ s.op = 6#4 ∧ s.stage = .pattern ∧ s.stat = .success ∧
      ((∃ r, StepEnded r s t) ∨ ExitSentUnscanned s t)) ∨
    ((s.cx = .done ∨ s.cx = .failed) ∧ t.cx = .idle ∧ s.ph = .rsp ∧ 1 ≤ s.takes)

/-- 20_memory.md R74: the frame a setter sends depends only on its own argument and on CT_INIT, never on earlier operations. -/
def Obligations.SetterFramesDependOnTheArgumentOnly : Prop :=
  (∀ (s s' t t' : State) (i : Instr) (k : Kind) (ks : List Kind), SeqInv s → SeqInv s' → s.cfg = s'.cfg → s.ph = .idle →
    s'.ph = .idle → brackets i = k :: ks → exec i s = .next t → exec i s' = .next t' → t.template k = t'.template k) ∧
  (∀ s s' : State, SeqInv s → SeqInv s' → s.cfg = s'.cfg → s.arg = s'.arg → s.op = 6#4 → s'.op = 6#4 → s.stage = .pattern →
    s'.stage = .pattern → (finish .success s).template .mode = (finish .success s').template .mode)

/-- 30_encoding.md R91, R108, 41_command_fsm.md R165: a step sends nothing outside PH_TX; what it sends are bytes of the
template of KIND for the device DEV_ID, and bytes 0 to 3 are `42 57 02 00`. -/
def Obligations.OnlyTemplatesAreSent : Prop :=
  ∀ s t : State, SeqInv s → step s = .next t →
    ∃ new, t.hist = new ++ s.hist ∧ ∀ dev b a, Obs.tx dev b a ∈ new →
      s.ph = .tx ∧ dev = s.devId ∧ ∃ j : Fin 8, s.txi.val ≤ j.val ∧ b = s.ctByte s.kind j ∧
        (j.val < 4 → [0x42#8, 0x57#8, 0x02#8, 0x00#8][j.val]? = some b)

/-- 10_state.md R41, 70_reset_and_hazards.md R310: the result registers stay unchanged while an operation is in progress, and
from the step that finishes it until the next request. -/
def Obligations.ResultsStayUntilTheNextRequest : Prop :=
  ∀ s t : State, NoReset s → step s = .next t →
    (s.ph = .rsp ∨ (s.ph ≠ .idle ∧ t.ph ≠ .rsp) ∨ (s.ph = .idle ∧ s.reqs = [])) → SameResults s t

/-- 20_memory.md R75: the engine reads none of the event history (nor what a procedure called by itself returned; log 7, log 8). -/
def Obligations.TheEngineReadsNoHistory : Prop :=
  ∀ (s : State) (h : List Obs) (r : Ret),
    forgetHistory (step { s with hist := h, ret := r }) = forgetHistory (step s)

/-- 95_test_vectors.md S4, 42_setters.md R209: if every frame is acknowledged with Success, every command-issuing operation with a valid
argument answers Success, and sends exactly the frames of its brackets. -/
def Obligations.AcknowledgedCommandsSucceed : Prop :=
  ∀ (s : State) (i : Instr) (op : BitVec 4) (arg : Half) (rest : List (BitVec 20)) (txs : List TxAns) (rxs : List RxAns),
    ByteGrain s → s.ph = .idle → 3 ≤ s.msa → s.msa < 2 ^ s.cfg.msaW → reqOp i = some (op, arg) → brackets i ≠ [] →
    s.reqs = word op.toNat arg :: rest →
    s.txAns = taken (8 * ((brackets i).map bracketFrames).flatten.length) ++ txs →
    s.rxAns = answers (successes (((brackets i).map (bracketAcks s.cfg)).sum)) ++ rxs →
    ∃ n t, core.run n s = .next t ∧ t.ph = .rsp ∧ t.cx = .done ∧ t.rspStatus = some .success ∧ t.reqs = rest ∧
      t.txAns = txs ∧ t.rxAns = rxs ∧
      txStream t = txStream s ++ frameBytes t ((brackets i).map bracketFrames).flatten

/-- 95_test_vectors.md S5, 40_frame_sync.md R137, 41_command_fsm.md R170, R174: if the transport never delivers the first magic
byte, every command-issuing operation with a valid argument sends three enter frames, reads 3 x MSA bytes and answers ErrorTransmission. -/
def Obligations.UnacknowledgedCommandsFail : Prop :=
  ∀ (s : State) (i : Instr) (op : BitVec 4) (arg : Half) (rest : List (BitVec 20)) (txs : List TxAns) (g : List Byte)
    (rxs : List RxAns), ByteGrain s → s.ph = .idle → 1 ≤ s.msa → s.msa < 2 ^ s.cfg.msaW → reqOp i = some (op, arg) →
    brackets i ≠ [] → s.reqs = word op.toNat arg :: rest → s.txAns = taken 24 ++ txs → g.length = 3 * s.msa →
    (∀ b ∈ g, b ≠ 0x42#8) → s.rxAns = answers g ++ rxs →
    ∃ t, core.run (25 + 3 * s.msa) s = .next t ∧ t.ph = .rsp ∧ t.cx = .failed ∧
      t.rspStatus = some .errorTransmission ∧ t.txAns = txs ∧ t.rxAns = rxs ∧
      txStream t = txStream s ++ frameBytes t [.enter, .enter, .enter]

/-- 10_state.md R42, 41_command_fsm.md R177, 40_frame_sync.md R142: an operation in progress reaches its response if the
environment answers, within 80 TX answers and 10 x (MSA + 1) RX answers, whatever the answers are. -/
def Obligations.EveryOperationReachesItsResponse : Prop :=
  ∀ s : State, SeqInv s → ByteGrain s → s.ph ≠ .idle → 80 ≤ s.txAns.length → 10 * (s.msa + 1) ≤ s.rxAns.length →
    ∃ n t, n ≤ 80 + 10 * (s.msa + 1) ∧ core.run n s = .next t ∧ t.ph = .rsp
end

