-- ==== Sys2Proof/Laws/State.lean ====
section
/-! SUPPORT. One lemma for each field of State and each update of Machine/Operands.lean, Ops.lean and Procedures.lean, so that no
proof unfolds a record update. -/

namespace Sys2Proof.Machine

/-! `State.setCtByte` -/

@[simp] theorem State.setCtByte_cfg (s : State) (k : Kind) (i : Fin 8) (b : Byte) : (s.setCtByte k i b).cfg = s.cfg := rfl
@[simp] theorem State.setCtByte_devId (s : State) (k : Kind) (i : Fin 8) (b : Byte) : (s.setCtByte k i b).devId = s.devId := rfl
@[simp] theorem State.setCtByte_msa (s : State) (k : Kind) (i : Fin 8) (b : Byte) : (s.setCtByte k i b).msa = s.msa := rfl
@[simp] theorem State.setCtByte_ct (s : State) (k : Kind) (i : Fin 8) (b : Byte) : (s.setCtByte k i b).ct = s.ct.set k.idx (s.ct[k.idx].set i b) := rfl
@[simp] theorem State.setCtByte_reading (s : State) (k : Kind) (i : Fin 8) (b : Byte) : (s.setCtByte k i b).reading = s.reading := rfl
@[simp] theorem State.setCtByte_strength (s : State) (k : Kind) (i : Fin 8) (b : Byte) : (s.setCtByte k i b).strength = s.strength := rfl
@[simp] theorem State.setCtByte_short (s : State) (k : Kind) (i : Fin 8) (b : Byte) : (s.setCtByte k i b).short = s.short := rfl
@[simp] theorem State.setCtByte_ckOk (s : State) (k : Kind) (i : Fin 8) (b : Byte) : (s.setCtByte k i b).ckOk = s.ckOk := rfl
@[simp] theorem State.setCtByte_measValid (s : State) (k : Kind) (i : Fin 8) (b : Byte) : (s.setCtByte k i b).measValid = s.measValid := rfl
@[simp] theorem State.setCtByte_pb (s : State) (k : Kind) (i : Fin 8) (b : Byte) : (s.setCtByte k i b).pb = s.pb := rfl
@[simp] theorem State.setCtByte_cx (s : State) (k : Kind) (i : Fin 8) (b : Byte) : (s.setCtByte k i b).cx = s.cx := rfl
@[simp] theorem State.setCtByte_ph (s : State) (k : Kind) (i : Fin 8) (b : Byte) : (s.setCtByte k i b).ph = s.ph := rfl
@[simp] theorem State.setCtByte_op (s : State) (k : Kind) (i : Fin 8) (b : Byte) : (s.setCtByte k i b).op = s.op := rfl
@[simp] theorem State.setCtByte_arg (s : State) (k : Kind) (i : Fin 8) (b : Byte) : (s.setCtByte k i b).arg = s.arg := rfl
@[simp] theorem State.setCtByte_cmd (s : State) (k : Kind) (i : Fin 8) (b : Byte) : (s.setCtByte k i b).cmd = s.cmd := rfl
@[simp] theorem State.setCtByte_kind (s : State) (k : Kind) (i : Fin 8) (b : Byte) : (s.setCtByte k i b).kind = s.kind := rfl
@[simp] theorem State.setCtByte_txi (s : State) (k : Kind) (i : Fin 8) (b : Byte) : (s.setCtByte k i b).txi = s.txi := rfl
@[simp] theorem State.setCtByte_tries (s : State) (k : Kind) (i : Fin 8) (b : Byte) : (s.setCtByte k i b).tries = s.tries := rfl
@[simp] theorem State.setCtByte_stat (s : State) (k : Kind) (i : Fin 8) (b : Byte) : (s.setCtByte k i b).stat = s.stat := rfl
@[simp] theorem State.setCtByte_stage (s : State) (k : Kind) (i : Fin 8) (b : Byte) : (s.setCtByte k i b).stage = s.stage := rfl
@[simp] theorem State.setCtByte_fsmode (s : State) (k : Kind) (i : Fin 8) (b : Byte) : (s.setCtByte k i b).fsmode = s.fsmode := rfl
@[simp] theorem State.setCtByte_mc (s : State) (k : Kind) (i : Fin 8) (b : Byte) : (s.setCtByte k i b).mc = s.mc := rfl
@[simp] theorem State.setCtByte_att (s : State) (k : Kind) (i : Fin 8) (b : Byte) : (s.setCtByte k i b).att = s.att := rfl
@[simp] theorem State.setCtByte_pc (s : State) (k : Kind) (i : Fin 8) (b : Byte) : (s.setCtByte k i b).pc = s.pc := rfl
@[simp] theorem State.setCtByte_rspValid (s : State) (k : Kind) (i : Fin 8) (b : Byte) : (s.setCtByte k i b).rspValid = s.rspValid := rfl
@[simp] theorem State.setCtByte_rspStatus (s : State) (k : Kind) (i : Fin 8) (b : Byte) : (s.setCtByte k i b).rspStatus = s.rspStatus := rfl
@[simp] theorem State.setCtByte_rspData (s : State) (k : Kind) (i : Fin 8) (b : Byte) : (s.setCtByte k i b).rspData = s.rspData := rfl
@[simp] theorem State.setCtByte_rst (s : State) (k : Kind) (i : Fin 8) (b : Byte) : (s.setCtByte k i b).rst = s.rst := rfl
@[simp] theorem State.setCtByte_reqs (s : State) (k : Kind) (i : Fin 8) (b : Byte) : (s.setCtByte k i b).reqs = s.reqs := rfl
@[simp] theorem State.setCtByte_takes (s : State) (k : Kind) (i : Fin 8) (b : Byte) : (s.setCtByte k i b).takes = s.takes := rfl
@[simp] theorem State.setCtByte_txAns (s : State) (k : Kind) (i : Fin 8) (b : Byte) : (s.setCtByte k i b).txAns = s.txAns := rfl
@[simp] theorem State.setCtByte_rxAns (s : State) (k : Kind) (i : Fin 8) (b : Byte) : (s.setCtByte k i b).rxAns = s.rxAns := rfl
@[simp] theorem State.setCtByte_txBuf (s : State) (k : Kind) (i : Fin 8) (b : Byte) : (s.setCtByte k i b).txBuf = s.txBuf := rfl
@[simp] theorem State.setCtByte_rxBuf (s : State) (k : Kind) (i : Fin 8) (b : Byte) : (s.setCtByte k i b).rxBuf = s.rxBuf := rfl
@[simp] theorem State.setCtByte_hist (s : State) (k : Kind) (i : Fin 8) (b : Byte) : (s.setCtByte k i b).hist = s.hist := rfl
@[simp] theorem State.setCtByte_ret (s : State) (k : Kind) (i : Fin 8) (b : Byte) : (s.setCtByte k i b).ret = s.ret := rfl

/-! `State.packSel` -/

@[simp] theorem State.packSel_cfg (s : State) (k : Kind) (v : Half) : (s.packSel k v).cfg = s.cfg := rfl
@[simp] theorem State.packSel_devId (s : State) (k : Kind) (v : Half) : (s.packSel k v).devId = s.devId := rfl
@[simp] theorem State.packSel_msa (s : State) (k : Kind) (v : Half) : (s.packSel k v).msa = s.msa := rfl
@[simp] theorem State.packSel_reading (s : State) (k : Kind) (v : Half) : (s.packSel k v).reading = s.reading := rfl
@[simp] theorem State.packSel_strength (s : State) (k : Kind) (v : Half) : (s.packSel k v).strength = s.strength := rfl
@[simp] theorem State.packSel_short (s : State) (k : Kind) (v : Half) : (s.packSel k v).short = s.short := rfl
@[simp] theorem State.packSel_ckOk (s : State) (k : Kind) (v : Half) : (s.packSel k v).ckOk = s.ckOk := rfl
@[simp] theorem State.packSel_measValid (s : State) (k : Kind) (v : Half) : (s.packSel k v).measValid = s.measValid := rfl
@[simp] theorem State.packSel_pb (s : State) (k : Kind) (v : Half) : (s.packSel k v).pb = s.pb := rfl
@[simp] theorem State.packSel_cx (s : State) (k : Kind) (v : Half) : (s.packSel k v).cx = s.cx := rfl
@[simp] theorem State.packSel_ph (s : State) (k : Kind) (v : Half) : (s.packSel k v).ph = s.ph := rfl
@[simp] theorem State.packSel_op (s : State) (k : Kind) (v : Half) : (s.packSel k v).op = s.op := rfl
@[simp] theorem State.packSel_arg (s : State) (k : Kind) (v : Half) : (s.packSel k v).arg = s.arg := rfl
@[simp] theorem State.packSel_cmd (s : State) (k : Kind) (v : Half) : (s.packSel k v).cmd = s.cmd := rfl
@[simp] theorem State.packSel_kind (s : State) (k : Kind) (v : Half) : (s.packSel k v).kind = s.kind := rfl
@[simp] theorem State.packSel_txi (s : State) (k : Kind) (v : Half) : (s.packSel k v).txi = s.txi := rfl
@[simp] theorem State.packSel_tries (s : State) (k : Kind) (v : Half) : (s.packSel k v).tries = s.tries := rfl
@[simp] theorem State.packSel_stat (s : State) (k : Kind) (v : Half) : (s.packSel k v).stat = s.stat := rfl
@[simp] theorem State.packSel_stage (s : State) (k : Kind) (v : Half) : (s.packSel k v).stage = s.stage := rfl
@[simp] theorem State.packSel_fsmode (s : State) (k : Kind) (v : Half) : (s.packSel k v).fsmode = s.fsmode := rfl
@[simp] theorem State.packSel_mc (s : State) (k : Kind) (v : Half) : (s.packSel k v).mc = s.mc := rfl
@[simp] theorem State.packSel_att (s : State) (k : Kind) (v : Half) : (s.packSel k v).att = s.att := rfl
@[simp] theorem State.packSel_pc (s : State) (k : Kind) (v : Half) : (s.packSel k v).pc = s.pc := rfl
@[simp] theorem State.packSel_rspValid (s : State) (k : Kind) (v : Half) : (s.packSel k v).rspValid = s.rspValid := rfl
@[simp] theorem State.packSel_rspStatus (s : State) (k : Kind) (v : Half) : (s.packSel k v).rspStatus = s.rspStatus := rfl
@[simp] theorem State.packSel_rspData (s : State) (k : Kind) (v : Half) : (s.packSel k v).rspData = s.rspData := rfl
@[simp] theorem State.packSel_rst (s : State) (k : Kind) (v : Half) : (s.packSel k v).rst = s.rst := rfl
@[simp] theorem State.packSel_reqs (s : State) (k : Kind) (v : Half) : (s.packSel k v).reqs = s.reqs := rfl
@[simp] theorem State.packSel_takes (s : State) (k : Kind) (v : Half) : (s.packSel k v).takes = s.takes := rfl
@[simp] theorem State.packSel_txAns (s : State) (k : Kind) (v : Half) : (s.packSel k v).txAns = s.txAns := rfl
@[simp] theorem State.packSel_rxAns (s : State) (k : Kind) (v : Half) : (s.packSel k v).rxAns = s.rxAns := rfl
@[simp] theorem State.packSel_txBuf (s : State) (k : Kind) (v : Half) : (s.packSel k v).txBuf = s.txBuf := rfl
@[simp] theorem State.packSel_rxBuf (s : State) (k : Kind) (v : Half) : (s.packSel k v).rxBuf = s.rxBuf := rfl
@[simp] theorem State.packSel_hist (s : State) (k : Kind) (v : Half) : (s.packSel k v).hist = s.hist := rfl
@[simp] theorem State.packSel_ret (s : State) (k : Kind) (v : Half) : (s.packSel k v).ret = s.ret := rfl

/-! `State.pack16` -/

@[simp] theorem State.pack16_cfg (s : State) (k : Kind) (v : Half) : (s.pack16 k v).cfg = s.cfg := rfl
@[simp] theorem State.pack16_devId (s : State) (k : Kind) (v : Half) : (s.pack16 k v).devId = s.devId := rfl
@[simp] theorem State.pack16_msa (s : State) (k : Kind) (v : Half) : (s.pack16 k v).msa = s.msa := rfl
@[simp] theorem State.pack16_reading (s : State) (k : Kind) (v : Half) : (s.pack16 k v).reading = s.reading := rfl
@[simp] theorem State.pack16_strength (s : State) (k : Kind) (v : Half) : (s.pack16 k v).strength = s.strength := rfl
@[simp] theorem State.pack16_short (s : State) (k : Kind) (v : Half) : (s.pack16 k v).short = s.short := rfl
@[simp] theorem State.pack16_ckOk (s : State) (k : Kind) (v : Half) : (s.pack16 k v).ckOk = s.ckOk := rfl
@[simp] theorem State.pack16_measValid (s : State) (k : Kind) (v : Half) : (s.pack16 k v).measValid = s.measValid := rfl
@[simp] theorem State.pack16_pb (s : State) (k : Kind) (v : Half) : (s.pack16 k v).pb = s.pb := rfl
@[simp] theorem State.pack16_cx (s : State) (k : Kind) (v : Half) : (s.pack16 k v).cx = s.cx := rfl
@[simp] theorem State.pack16_ph (s : State) (k : Kind) (v : Half) : (s.pack16 k v).ph = s.ph := rfl
@[simp] theorem State.pack16_op (s : State) (k : Kind) (v : Half) : (s.pack16 k v).op = s.op := rfl
@[simp] theorem State.pack16_arg (s : State) (k : Kind) (v : Half) : (s.pack16 k v).arg = s.arg := rfl
@[simp] theorem State.pack16_cmd (s : State) (k : Kind) (v : Half) : (s.pack16 k v).cmd = s.cmd := rfl
@[simp] theorem State.pack16_kind (s : State) (k : Kind) (v : Half) : (s.pack16 k v).kind = s.kind := rfl
@[simp] theorem State.pack16_txi (s : State) (k : Kind) (v : Half) : (s.pack16 k v).txi = s.txi := rfl
@[simp] theorem State.pack16_tries (s : State) (k : Kind) (v : Half) : (s.pack16 k v).tries = s.tries := rfl
@[simp] theorem State.pack16_stat (s : State) (k : Kind) (v : Half) : (s.pack16 k v).stat = s.stat := rfl
@[simp] theorem State.pack16_stage (s : State) (k : Kind) (v : Half) : (s.pack16 k v).stage = s.stage := rfl
@[simp] theorem State.pack16_fsmode (s : State) (k : Kind) (v : Half) : (s.pack16 k v).fsmode = s.fsmode := rfl
@[simp] theorem State.pack16_mc (s : State) (k : Kind) (v : Half) : (s.pack16 k v).mc = s.mc := rfl
@[simp] theorem State.pack16_att (s : State) (k : Kind) (v : Half) : (s.pack16 k v).att = s.att := rfl
@[simp] theorem State.pack16_pc (s : State) (k : Kind) (v : Half) : (s.pack16 k v).pc = s.pc := rfl
@[simp] theorem State.pack16_rspValid (s : State) (k : Kind) (v : Half) : (s.pack16 k v).rspValid = s.rspValid := rfl
@[simp] theorem State.pack16_rspStatus (s : State) (k : Kind) (v : Half) : (s.pack16 k v).rspStatus = s.rspStatus := rfl
@[simp] theorem State.pack16_rspData (s : State) (k : Kind) (v : Half) : (s.pack16 k v).rspData = s.rspData := rfl
@[simp] theorem State.pack16_rst (s : State) (k : Kind) (v : Half) : (s.pack16 k v).rst = s.rst := rfl
@[simp] theorem State.pack16_reqs (s : State) (k : Kind) (v : Half) : (s.pack16 k v).reqs = s.reqs := rfl
@[simp] theorem State.pack16_takes (s : State) (k : Kind) (v : Half) : (s.pack16 k v).takes = s.takes := rfl
@[simp] theorem State.pack16_txAns (s : State) (k : Kind) (v : Half) : (s.pack16 k v).txAns = s.txAns := rfl
@[simp] theorem State.pack16_rxAns (s : State) (k : Kind) (v : Half) : (s.pack16 k v).rxAns = s.rxAns := rfl
@[simp] theorem State.pack16_txBuf (s : State) (k : Kind) (v : Half) : (s.pack16 k v).txBuf = s.txBuf := rfl
@[simp] theorem State.pack16_rxBuf (s : State) (k : Kind) (v : Half) : (s.pack16 k v).rxBuf = s.rxBuf := rfl
@[simp] theorem State.pack16_hist (s : State) (k : Kind) (v : Half) : (s.pack16 k v).hist = s.hist := rfl
@[simp] theorem State.pack16_ret (s : State) (k : Kind) (v : Half) : (s.pack16 k v).ret = s.ret := rfl

/-! `State.packFlag` -/

@[simp] theorem State.packFlag_cfg (s : State) (v : Half) : (s.packFlag v).cfg = s.cfg := rfl
@[simp] theorem State.packFlag_devId (s : State) (v : Half) : (s.packFlag v).devId = s.devId := rfl
@[simp] theorem State.packFlag_msa (s : State) (v : Half) : (s.packFlag v).msa = s.msa := rfl
@[simp] theorem State.packFlag_reading (s : State) (v : Half) : (s.packFlag v).reading = s.reading := rfl
@[simp] theorem State.packFlag_strength (s : State) (v : Half) : (s.packFlag v).strength = s.strength := rfl
@[simp] theorem State.packFlag_short (s : State) (v : Half) : (s.packFlag v).short = s.short := rfl
@[simp] theorem State.packFlag_ckOk (s : State) (v : Half) : (s.packFlag v).ckOk = s.ckOk := rfl
@[simp] theorem State.packFlag_measValid (s : State) (v : Half) : (s.packFlag v).measValid = s.measValid := rfl
@[simp] theorem State.packFlag_pb (s : State) (v : Half) : (s.packFlag v).pb = s.pb := rfl
@[simp] theorem State.packFlag_cx (s : State) (v : Half) : (s.packFlag v).cx = s.cx := rfl
@[simp] theorem State.packFlag_ph (s : State) (v : Half) : (s.packFlag v).ph = s.ph := rfl
@[simp] theorem State.packFlag_op (s : State) (v : Half) : (s.packFlag v).op = s.op := rfl
@[simp] theorem State.packFlag_arg (s : State) (v : Half) : (s.packFlag v).arg = s.arg := rfl
@[simp] theorem State.packFlag_cmd (s : State) (v : Half) : (s.packFlag v).cmd = s.cmd := rfl
@[simp] theorem State.packFlag_kind (s : State) (v : Half) : (s.packFlag v).kind = s.kind := rfl
@[simp] theorem State.packFlag_txi (s : State) (v : Half) : (s.packFlag v).txi = s.txi := rfl
@[simp] theorem State.packFlag_tries (s : State) (v : Half) : (s.packFlag v).tries = s.tries := rfl
@[simp] theorem State.packFlag_stat (s : State) (v : Half) : (s.packFlag v).stat = s.stat := rfl
@[simp] theorem State.packFlag_stage (s : State) (v : Half) : (s.packFlag v).stage = s.stage := rfl
@[simp] theorem State.packFlag_fsmode (s : State) (v : Half) : (s.packFlag v).fsmode = s.fsmode := rfl
@[simp] theorem State.packFlag_mc (s : State) (v : Half) : (s.packFlag v).mc = s.mc := rfl
@[simp] theorem State.packFlag_att (s : State) (v : Half) : (s.packFlag v).att = s.att := rfl
@[simp] theorem State.packFlag_pc (s : State) (v : Half) : (s.packFlag v).pc = s.pc := rfl
@[simp] theorem State.packFlag_rspValid (s : State) (v : Half) : (s.packFlag v).rspValid = s.rspValid := rfl
@[simp] theorem State.packFlag_rspStatus (s : State) (v : Half) : (s.packFlag v).rspStatus = s.rspStatus := rfl
@[simp] theorem State.packFlag_rspData (s : State) (v : Half) : (s.packFlag v).rspData = s.rspData := rfl
@[simp] theorem State.packFlag_rst (s : State) (v : Half) : (s.packFlag v).rst = s.rst := rfl
@[simp] theorem State.packFlag_reqs (s : State) (v : Half) : (s.packFlag v).reqs = s.reqs := rfl
@[simp] theorem State.packFlag_takes (s : State) (v : Half) : (s.packFlag v).takes = s.takes := rfl
@[simp] theorem State.packFlag_txAns (s : State) (v : Half) : (s.packFlag v).txAns = s.txAns := rfl
@[simp] theorem State.packFlag_rxAns (s : State) (v : Half) : (s.packFlag v).rxAns = s.rxAns := rfl
@[simp] theorem State.packFlag_txBuf (s : State) (v : Half) : (s.packFlag v).txBuf = s.txBuf := rfl
@[simp] theorem State.packFlag_rxBuf (s : State) (v : Half) : (s.packFlag v).rxBuf = s.rxBuf := rfl
@[simp] theorem State.packFlag_hist (s : State) (v : Half) : (s.packFlag v).hist = s.hist := rfl
@[simp] theorem State.packFlag_ret (s : State) (v : Half) : (s.packFlag v).ret = s.ret := rfl

/-! `State.observe` -/

@[simp] theorem State.observe_cfg (s : State) (o : Obs) : (s.observe o).cfg = s.cfg := rfl
@[simp] theorem State.observe_devId (s : State) (o : Obs) : (s.observe o).devId = s.devId := rfl
@[simp] theorem State.observe_msa (s : State) (o : Obs) : (s.observe o).msa = s.msa := rfl
@[simp] theorem State.observe_ct (s : State) (o : Obs) : (s.observe o).ct = s.ct := rfl
@[simp] theorem State.observe_reading (s : State) (o : Obs) : (s.observe o).reading = s.reading := rfl
@[simp] theorem State.observe_strength (s : State) (o : Obs) : (s.observe o).strength = s.strength := rfl
@[simp] theorem State.observe_short (s : State) (o : Obs) : (s.observe o).short = s.short := rfl
@[simp] theorem State.observe_ckOk (s : State) (o : Obs) : (s.observe o).ckOk = s.ckOk := rfl
@[simp] theorem State.observe_measValid (s : State) (o : Obs) : (s.observe o).measValid = s.measValid := rfl
@[simp] theorem State.observe_pb (s : State) (o : Obs) : (s.observe o).pb = s.pb := rfl
@[simp] theorem State.observe_cx (s : State) (o : Obs) : (s.observe o).cx = s.cx := rfl
@[simp] theorem State.observe_ph (s : State) (o : Obs) : (s.observe o).ph = s.ph := rfl
@[simp] theorem State.observe_op (s : State) (o : Obs) : (s.observe o).op = s.op := rfl
@[simp] theorem State.observe_arg (s : State) (o : Obs) : (s.observe o).arg = s.arg := rfl
@[simp] theorem State.observe_cmd (s : State) (o : Obs) : (s.observe o).cmd = s.cmd := rfl
@[simp] theorem State.observe_kind (s : State) (o : Obs) : (s.observe o).kind = s.kind := rfl
@[simp] theorem State.observe_txi (s : State) (o : Obs) : (s.observe o).txi = s.txi := rfl
@[simp] theorem State.observe_tries (s : State) (o : Obs) : (s.observe o).tries = s.tries := rfl
@[simp] theorem State.observe_stat (s : State) (o : Obs) : (s.observe o).stat = s.stat := rfl
@[simp] theorem State.observe_stage (s : State) (o : Obs) : (s.observe o).stage = s.stage := rfl
@[simp] theorem State.observe_fsmode (s : State) (o : Obs) : (s.observe o).fsmode = s.fsmode := rfl
@[simp] theorem State.observe_mc (s : State) (o : Obs) : (s.observe o).mc = s.mc := rfl
@[simp] theorem State.observe_att (s : State) (o : Obs) : (s.observe o).att = s.att := rfl
@[simp] theorem State.observe_pc (s : State) (o : Obs) : (s.observe o).pc = s.pc := rfl
@[simp] theorem State.observe_rspValid (s : State) (o : Obs) : (s.observe o).rspValid = s.rspValid := rfl
@[simp] theorem State.observe_rspStatus (s : State) (o : Obs) : (s.observe o).rspStatus = s.rspStatus := rfl
@[simp] theorem State.observe_rspData (s : State) (o : Obs) : (s.observe o).rspData = s.rspData := rfl
@[simp] theorem State.observe_rst (s : State) (o : Obs) : (s.observe o).rst = s.rst := rfl
@[simp] theorem State.observe_reqs (s : State) (o : Obs) : (s.observe o).reqs = s.reqs := rfl
@[simp] theorem State.observe_takes (s : State) (o : Obs) : (s.observe o).takes = s.takes := rfl
@[simp] theorem State.observe_txAns (s : State) (o : Obs) : (s.observe o).txAns = s.txAns := rfl
@[simp] theorem State.observe_rxAns (s : State) (o : Obs) : (s.observe o).rxAns = s.rxAns := rfl
@[simp] theorem State.observe_txBuf (s : State) (o : Obs) : (s.observe o).txBuf = s.txBuf := rfl
@[simp] theorem State.observe_rxBuf (s : State) (o : Obs) : (s.observe o).rxBuf = s.rxBuf := rfl
@[simp] theorem State.observe_hist (s : State) (o : Obs) : (s.observe o).hist = o :: s.hist := rfl
@[simp] theorem State.observe_ret (s : State) (o : Obs) : (s.observe o).ret = s.ret := rfl

/-! `State.pushPayload` -/

@[simp] theorem State.pushPayload_cfg (s : State) (b : Byte) : (s.pushPayload b).cfg = s.cfg := rfl
@[simp] theorem State.pushPayload_devId (s : State) (b : Byte) : (s.pushPayload b).devId = s.devId := rfl
@[simp] theorem State.pushPayload_msa (s : State) (b : Byte) : (s.pushPayload b).msa = s.msa := rfl
@[simp] theorem State.pushPayload_ct (s : State) (b : Byte) : (s.pushPayload b).ct = s.ct := rfl
@[simp] theorem State.pushPayload_reading (s : State) (b : Byte) : (s.pushPayload b).reading = s.reading := rfl
@[simp] theorem State.pushPayload_strength (s : State) (b : Byte) : (s.pushPayload b).strength = s.strength := rfl
@[simp] theorem State.pushPayload_short (s : State) (b : Byte) : (s.pushPayload b).short = s.short := rfl
@[simp] theorem State.pushPayload_ckOk (s : State) (b : Byte) : (s.pushPayload b).ckOk = s.ckOk := rfl
@[simp] theorem State.pushPayload_measValid (s : State) (b : Byte) : (s.pushPayload b).measValid = s.measValid := rfl
@[simp] theorem State.pushPayload_pb (s : State) (b : Byte) : (s.pushPayload b).pb = s.pb.setIfInBounds s.pc b := rfl
@[simp] theorem State.pushPayload_cx (s : State) (b : Byte) : (s.pushPayload b).cx = s.cx := rfl
@[simp] theorem State.pushPayload_ph (s : State) (b : Byte) : (s.pushPayload b).ph = s.ph := rfl
@[simp] theorem State.pushPayload_op (s : State) (b : Byte) : (s.pushPayload b).op = s.op := rfl
@[simp] theorem State.pushPayload_arg (s : State) (b : Byte) : (s.pushPayload b).arg = s.arg := rfl
@[simp] theorem State.pushPayload_cmd (s : State) (b : Byte) : (s.pushPayload b).cmd = s.cmd := rfl
@[simp] theorem State.pushPayload_kind (s : State) (b : Byte) : (s.pushPayload b).kind = s.kind := rfl
@[simp] theorem State.pushPayload_txi (s : State) (b : Byte) : (s.pushPayload b).txi = s.txi := rfl
@[simp] theorem State.pushPayload_tries (s : State) (b : Byte) : (s.pushPayload b).tries = s.tries := rfl
@[simp] theorem State.pushPayload_stat (s : State) (b : Byte) : (s.pushPayload b).stat = s.stat := rfl
@[simp] theorem State.pushPayload_stage (s : State) (b : Byte) : (s.pushPayload b).stage = s.stage := rfl
@[simp] theorem State.pushPayload_fsmode (s : State) (b : Byte) : (s.pushPayload b).fsmode = s.fsmode := rfl
@[simp] theorem State.pushPayload_mc (s : State) (b : Byte) : (s.pushPayload b).mc = s.mc := rfl
@[simp] theorem State.pushPayload_att (s : State) (b : Byte) : (s.pushPayload b).att = s.att := rfl
@[simp] theorem State.pushPayload_pc (s : State) (b : Byte) : (s.pushPayload b).pc = s.pc + 1 := rfl
@[simp] theorem State.pushPayload_rspValid (s : State) (b : Byte) : (s.pushPayload b).rspValid = s.rspValid := rfl
@[simp] theorem State.pushPayload_rspStatus (s : State) (b : Byte) : (s.pushPayload b).rspStatus = s.rspStatus := rfl
@[simp] theorem State.pushPayload_rspData (s : State) (b : Byte) : (s.pushPayload b).rspData = s.rspData := rfl
@[simp] theorem State.pushPayload_rst (s : State) (b : Byte) : (s.pushPayload b).rst = s.rst := rfl
@[simp] theorem State.pushPayload_reqs (s : State) (b : Byte) : (s.pushPayload b).reqs = s.reqs := rfl
@[simp] theorem State.pushPayload_takes (s : State) (b : Byte) : (s.pushPayload b).takes = s.takes := rfl
@[simp] theorem State.pushPayload_txAns (s : State) (b : Byte) : (s.pushPayload b).txAns = s.txAns := rfl
@[simp] theorem State.pushPayload_rxAns (s : State) (b : Byte) : (s.pushPayload b).rxAns = s.rxAns := rfl
@[simp] theorem State.pushPayload_txBuf (s : State) (b : Byte) : (s.pushPayload b).txBuf = s.txBuf := rfl
@[simp] theorem State.pushPayload_rxBuf (s : State) (b : Byte) : (s.pushPayload b).rxBuf = s.rxBuf := rfl
@[simp] theorem State.pushPayload_hist (s : State) (b : Byte) : (s.pushPayload b).hist = s.hist := rfl
@[simp] theorem State.pushPayload_ret (s : State) (b : Byte) : (s.pushPayload b).ret = s.ret := rfl

/-! `State.takeRx` -/

@[simp] theorem State.takeRx_cfg (s : State) (a : RxAns) (as : List RxAns) : (s.takeRx a as).cfg = s.cfg := rfl
@[simp] theorem State.takeRx_devId (s : State) (a : RxAns) (as : List RxAns) : (s.takeRx a as).devId = s.devId := rfl
@[simp] theorem State.takeRx_msa (s : State) (a : RxAns) (as : List RxAns) : (s.takeRx a as).msa = s.msa := rfl
@[simp] theorem State.takeRx_ct (s : State) (a : RxAns) (as : List RxAns) : (s.takeRx a as).ct = s.ct := rfl
@[simp] theorem State.takeRx_reading (s : State) (a : RxAns) (as : List RxAns) : (s.takeRx a as).reading = s.reading := rfl
@[simp] theorem State.takeRx_strength (s : State) (a : RxAns) (as : List RxAns) : (s.takeRx a as).strength = s.strength := rfl
@[simp] theorem State.takeRx_short (s : State) (a : RxAns) (as : List RxAns) : (s.takeRx a as).short = s.short := rfl
@[simp] theorem State.takeRx_ckOk (s : State) (a : RxAns) (as : List RxAns) : (s.takeRx a as).ckOk = s.ckOk := rfl
@[simp] theorem State.takeRx_measValid (s : State) (a : RxAns) (as : List RxAns) : (s.takeRx a as).measValid = s.measValid := rfl
@[simp] theorem State.takeRx_pb (s : State) (a : RxAns) (as : List RxAns) : (s.takeRx a as).pb = s.pb := rfl
@[simp] theorem State.takeRx_cx (s : State) (a : RxAns) (as : List RxAns) : (s.takeRx a as).cx = s.cx := rfl
@[simp] theorem State.takeRx_ph (s : State) (a : RxAns) (as : List RxAns) : (s.takeRx a as).ph = s.ph := rfl
@[simp] theorem State.takeRx_op (s : State) (a : RxAns) (as : List RxAns) : (s.takeRx a as).op = s.op := rfl
@[simp] theorem State.takeRx_arg (s : State) (a : RxAns) (as : List RxAns) : (s.takeRx a as).arg = s.arg := rfl
@[simp] theorem State.takeRx_cmd (s : State) (a : RxAns) (as : List RxAns) : (s.takeRx a as).cmd = s.cmd := rfl
@[simp] theorem State.takeRx_kind (s : State) (a : RxAns) (as : List RxAns) : (s.takeRx a as).kind = s.kind := rfl
@[simp] theorem State.takeRx_txi (s : State) (a : RxAns) (as : List RxAns) : (s.takeRx a as).txi = s.txi := rfl
@[simp] theorem State.takeRx_tries (s : State) (a : RxAns) (as : List RxAns) : (s.takeRx a as).tries = s.tries := rfl
@[simp] theorem State.takeRx_stat (s : State) (a : RxAns) (as : List RxAns) : (s.takeRx a as).stat = s.stat := rfl
@[simp] theorem State.takeRx_stage (s : State) (a : RxAns) (as : List RxAns) : (s.takeRx a as).stage = s.stage := rfl
@[simp] theorem State.takeRx_fsmode (s : State) (a : RxAns) (as : List RxAns) : (s.takeRx a as).fsmode = s.fsmode := rfl
@[simp] theorem State.takeRx_mc (s : State) (a : RxAns) (as : List RxAns) : (s.takeRx a as).mc = s.mc := rfl
@[simp] theorem State.takeRx_att (s : State) (a : RxAns) (as : List RxAns) : (s.takeRx a as).att = s.att := rfl
@[simp] theorem State.takeRx_pc (s : State) (a : RxAns) (as : List RxAns) : (s.takeRx a as).pc = s.pc := rfl
@[simp] theorem State.takeRx_rspValid (s : State) (a : RxAns) (as : List RxAns) : (s.takeRx a as).rspValid = s.rspValid := rfl
@[simp] theorem State.takeRx_rspStatus (s : State) (a : RxAns) (as : List RxAns) : (s.takeRx a as).rspStatus = s.rspStatus := rfl
@[simp] theorem State.takeRx_rspData (s : State) (a : RxAns) (as : List RxAns) : (s.takeRx a as).rspData = s.rspData := rfl
@[simp] theorem State.takeRx_rst (s : State) (a : RxAns) (as : List RxAns) : (s.takeRx a as).rst = s.rst := rfl
@[simp] theorem State.takeRx_reqs (s : State) (a : RxAns) (as : List RxAns) : (s.takeRx a as).reqs = s.reqs := rfl
@[simp] theorem State.takeRx_takes (s : State) (a : RxAns) (as : List RxAns) : (s.takeRx a as).takes = s.takes := rfl
@[simp] theorem State.takeRx_txAns (s : State) (a : RxAns) (as : List RxAns) : (s.takeRx a as).txAns = s.txAns := rfl
@[simp] theorem State.takeRx_rxAns (s : State) (a : RxAns) (as : List RxAns) : (s.takeRx a as).rxAns = as := rfl
@[simp] theorem State.takeRx_txBuf (s : State) (a : RxAns) (as : List RxAns) : (s.takeRx a as).txBuf = s.txBuf := rfl
@[simp] theorem State.takeRx_rxBuf (s : State) (a : RxAns) (as : List RxAns) : (s.takeRx a as).rxBuf = s.rxBuf := rfl
@[simp] theorem State.takeRx_hist (s : State) (a : RxAns) (as : List RxAns) : (s.takeRx a as).hist = .rx s.devId a :: s.hist := rfl
@[simp] theorem State.takeRx_ret (s : State) (a : RxAns) (as : List RxAns) : (s.takeRx a as).ret = s.ret := rfl

/-! `State.takeTx` -/

@[simp] theorem State.takeTx_cfg (s : State) (a : TxAns) (as : List TxAns) : (s.takeTx a as).cfg = s.cfg := rfl
@[simp] theorem State.takeTx_devId (s : State) (a : TxAns) (as : List TxAns) : (s.takeTx a as).devId = s.devId := rfl
@[simp] theorem State.takeTx_msa (s : State) (a : TxAns) (as : List TxAns) : (s.takeTx a as).msa = s.msa := rfl
@[simp] theorem State.takeTx_ct (s : State) (a : TxAns) (as : List TxAns) : (s.takeTx a as).ct = s.ct := rfl
@[simp] theorem State.takeTx_reading (s : State) (a : TxAns) (as : List TxAns) : (s.takeTx a as).reading = s.reading := rfl
@[simp] theorem State.takeTx_strength (s : State) (a : TxAns) (as : List TxAns) : (s.takeTx a as).strength = s.strength := rfl
@[simp] theorem State.takeTx_short (s : State) (a : TxAns) (as : List TxAns) : (s.takeTx a as).short = s.short := rfl
@[simp] theorem State.takeTx_ckOk (s : State) (a : TxAns) (as : List TxAns) : (s.takeTx a as).ckOk = s.ckOk := rfl
@[simp] theorem State.takeTx_measValid (s : State) (a : TxAns) (as : List TxAns) : (s.takeTx a as).measValid = s.measValid := rfl
@[simp] theorem State.takeTx_pb (s : State) (a : TxAns) (as : List TxAns) : (s.takeTx a as).pb = s.pb := rfl
@[simp] theorem State.takeTx_cx (s : State) (a : TxAns) (as : List TxAns) : (s.takeTx a as).cx = s.cx := rfl
@[simp] theorem State.takeTx_ph (s : State) (a : TxAns) (as : List TxAns) : (s.takeTx a as).ph = s.ph := rfl
@[simp] theorem State.takeTx_op (s : State) (a : TxAns) (as : List TxAns) : (s.takeTx a as).op = s.op := rfl
@[simp] theorem State.takeTx_arg (s : State) (a : TxAns) (as : List TxAns) : (s.takeTx a as).arg = s.arg := rfl
@[simp] theorem State.takeTx_cmd (s : State) (a : TxAns) (as : List TxAns) : (s.takeTx a as).cmd = s.cmd := rfl
@[simp] theorem State.takeTx_kind (s : State) (a : TxAns) (as : List TxAns) : (s.takeTx a as).kind = s.kind := rfl
@[simp] theorem State.takeTx_txi (s : State) (a : TxAns) (as : List TxAns) : (s.takeTx a as).txi = s.txi := rfl
@[simp] theorem State.takeTx_tries (s : State) (a : TxAns) (as : List TxAns) : (s.takeTx a as).tries = s.tries := rfl
@[simp] theorem State.takeTx_stat (s : State) (a : TxAns) (as : List TxAns) : (s.takeTx a as).stat = s.stat := rfl
@[simp] theorem State.takeTx_stage (s : State) (a : TxAns) (as : List TxAns) : (s.takeTx a as).stage = s.stage := rfl
@[simp] theorem State.takeTx_fsmode (s : State) (a : TxAns) (as : List TxAns) : (s.takeTx a as).fsmode = s.fsmode := rfl
@[simp] theorem State.takeTx_mc (s : State) (a : TxAns) (as : List TxAns) : (s.takeTx a as).mc = s.mc := rfl
@[simp] theorem State.takeTx_att (s : State) (a : TxAns) (as : List TxAns) : (s.takeTx a as).att = s.att := rfl
@[simp] theorem State.takeTx_pc (s : State) (a : TxAns) (as : List TxAns) : (s.takeTx a as).pc = s.pc := rfl
@[simp] theorem State.takeTx_rspValid (s : State) (a : TxAns) (as : List TxAns) : (s.takeTx a as).rspValid = s.rspValid := rfl
@[simp] theorem State.takeTx_rspStatus (s : State) (a : TxAns) (as : List TxAns) : (s.takeTx a as).rspStatus = s.rspStatus := rfl
@[simp] theorem State.takeTx_rspData (s : State) (a : TxAns) (as : List TxAns) : (s.takeTx a as).rspData = s.rspData := rfl
@[simp] theorem State.takeTx_rst (s : State) (a : TxAns) (as : List TxAns) : (s.takeTx a as).rst = s.rst := rfl
@[simp] theorem State.takeTx_reqs (s : State) (a : TxAns) (as : List TxAns) : (s.takeTx a as).reqs = s.reqs := rfl
@[simp] theorem State.takeTx_takes (s : State) (a : TxAns) (as : List TxAns) : (s.takeTx a as).takes = s.takes := rfl
@[simp] theorem State.takeTx_txAns (s : State) (a : TxAns) (as : List TxAns) : (s.takeTx a as).txAns = as := rfl
@[simp] theorem State.takeTx_rxAns (s : State) (a : TxAns) (as : List TxAns) : (s.takeTx a as).rxAns = s.rxAns := rfl
@[simp] theorem State.takeTx_txBuf (s : State) (a : TxAns) (as : List TxAns) : (s.takeTx a as).txBuf = s.txBuf := rfl
@[simp] theorem State.takeTx_rxBuf (s : State) (a : TxAns) (as : List TxAns) : (s.takeTx a as).rxBuf = s.rxBuf := rfl
@[simp] theorem State.takeTx_hist (s : State) (a : TxAns) (as : List TxAns) : (s.takeTx a as).hist = .tx s.devId s.txData a :: s.hist := rfl
@[simp] theorem State.takeTx_ret (s : State) (a : TxAns) (as : List TxAns) : (s.takeTx a as).ret = s.ret := rfl

/-! `acceptReq` -/

@[simp] theorem acceptReq_cfg (op : BitVec 4) (arg : Half) (s : State) : (acceptReq op arg s).cfg = s.cfg := rfl
@[simp] theorem acceptReq_devId (op : BitVec 4) (arg : Half) (s : State) : (acceptReq op arg s).devId = s.devId := rfl
@[simp] theorem acceptReq_msa (op : BitVec 4) (arg : Half) (s : State) : (acceptReq op arg s).msa = s.msa := rfl
@[simp] theorem acceptReq_ct (op : BitVec 4) (arg : Half) (s : State) : (acceptReq op arg s).ct = s.ct := rfl
@[simp] theorem acceptReq_reading (op : BitVec 4) (arg : Half) (s : State) : (acceptReq op arg s).reading = none := rfl
@[simp] theorem acceptReq_strength (op : BitVec 4) (arg : Half) (s : State) : (acceptReq op arg s).strength = none := rfl
@[simp] theorem acceptReq_short (op : BitVec 4) (arg : Half) (s : State) : (acceptReq op arg s).short = none := rfl
@[simp] theorem acceptReq_ckOk (op : BitVec 4) (arg : Half) (s : State) : (acceptReq op arg s).ckOk = none := rfl
@[simp] theorem acceptReq_measValid (op : BitVec 4) (arg : Half) (s : State) : (acceptReq op arg s).measValid = none := rfl
@[simp] theorem acceptReq_pb (op : BitVec 4) (arg : Half) (s : State) : (acceptReq op arg s).pb = s.pb := rfl
@[simp] theorem acceptReq_cx (op : BitVec 4) (arg : Half) (s : State) : (acceptReq op arg s).cx = s.cx := rfl
@[simp] theorem acceptReq_ph (op : BitVec 4) (arg : Half) (s : State) : (acceptReq op arg s).ph = s.ph := rfl
@[simp] theorem acceptReq_op (op : BitVec 4) (arg : Half) (s : State) : (acceptReq op arg s).op = op := rfl
@[simp] theorem acceptReq_arg (op : BitVec 4) (arg : Half) (s : State) : (acceptReq op arg s).arg = arg := rfl
@[simp] theorem acceptReq_cmd (op : BitVec 4) (arg : Half) (s : State) : (acceptReq op arg s).cmd = s.cmd := rfl
@[simp] theorem acceptReq_kind (op : BitVec 4) (arg : Half) (s : State) : (acceptReq op arg s).kind = s.kind := rfl
@[simp] theorem acceptReq_txi (op : BitVec 4) (arg : Half) (s : State) : (acceptReq op arg s).txi = s.txi := rfl
@[simp] theorem acceptReq_tries (op : BitVec 4) (arg : Half) (s : State) : (acceptReq op arg s).tries = s.tries := rfl
@[simp] theorem acceptReq_stat (op : BitVec 4) (arg : Half) (s : State) : (acceptReq op arg s).stat = s.stat := rfl
@[simp] theorem acceptReq_stage (op : BitVec 4) (arg : Half) (s : State) : (acceptReq op arg s).stage = s.stage := rfl
@[simp] theorem acceptReq_fsmode (op : BitVec 4) (arg : Half) (s : State) : (acceptReq op arg s).fsmode = s.fsmode := rfl
@[simp] theorem acceptReq_mc (op : BitVec 4) (arg : Half) (s : State) : (acceptReq op arg s).mc = s.mc := rfl
@[simp] theorem acceptReq_att (op : BitVec 4) (arg : Half) (s : State) : (acceptReq op arg s).att = s.att := rfl
@[simp] theorem acceptReq_pc (op : BitVec 4) (arg : Half) (s : State) : (acceptReq op arg s).pc = s.pc := rfl
@[simp] theorem acceptReq_rspValid (op : BitVec 4) (arg : Half) (s : State) : (acceptReq op arg s).rspValid = s.rspValid := rfl
@[simp] theorem acceptReq_rspStatus (op : BitVec 4) (arg : Half) (s : State) : (acceptReq op arg s).rspStatus = none := rfl
@[simp] theorem acceptReq_rspData (op : BitVec 4) (arg : Half) (s : State) : (acceptReq op arg s).rspData = none := rfl
@[simp] theorem acceptReq_rst (op : BitVec 4) (arg : Half) (s : State) : (acceptReq op arg s).rst = s.rst := rfl
@[simp] theorem acceptReq_reqs (op : BitVec 4) (arg : Half) (s : State) : (acceptReq op arg s).reqs = s.reqs := rfl
@[simp] theorem acceptReq_takes (op : BitVec 4) (arg : Half) (s : State) : (acceptReq op arg s).takes = s.takes := rfl
@[simp] theorem acceptReq_txAns (op : BitVec 4) (arg : Half) (s : State) : (acceptReq op arg s).txAns = s.txAns := rfl
@[simp] theorem acceptReq_rxAns (op : BitVec 4) (arg : Half) (s : State) : (acceptReq op arg s).rxAns = s.rxAns := rfl
@[simp] theorem acceptReq_txBuf (op : BitVec 4) (arg : Half) (s : State) : (acceptReq op arg s).txBuf = s.txBuf := rfl
@[simp] theorem acceptReq_rxBuf (op : BitVec 4) (arg : Half) (s : State) : (acceptReq op arg s).rxBuf = s.rxBuf := rfl
@[simp] theorem acceptReq_hist (op : BitVec 4) (arg : Half) (s : State) : (acceptReq op arg s).hist = .req op arg :: s.hist := rfl
@[simp] theorem acceptReq_ret (op : BitVec 4) (arg : Half) (s : State) : (acceptReq op arg s).ret = s.ret := rfl

/-! `present` -/

@[simp] theorem present_cfg (s : State) : (present s).cfg = s.cfg := rfl
@[simp] theorem present_devId (s : State) : (present s).devId = s.devId := rfl
@[simp] theorem present_msa (s : State) : (present s).msa = s.msa := rfl
@[simp] theorem present_ct (s : State) : (present s).ct = s.ct := rfl
@[simp] theorem present_reading (s : State) : (present s).reading = s.reading := rfl
@[simp] theorem present_strength (s : State) : (present s).strength = s.strength := rfl
@[simp] theorem present_short (s : State) : (present s).short = s.short := rfl
@[simp] theorem present_ckOk (s : State) : (present s).ckOk = s.ckOk := rfl
@[simp] theorem present_measValid (s : State) : (present s).measValid = s.measValid := rfl
@[simp] theorem present_pb (s : State) : (present s).pb = s.pb := rfl
@[simp] theorem present_cx (s : State) : (present s).cx = s.cx := rfl
@[simp] theorem present_ph (s : State) : (present s).ph = .rsp := rfl
@[simp] theorem present_op (s : State) : (present s).op = s.op := rfl
@[simp] theorem present_arg (s : State) : (present s).arg = s.arg := rfl
@[simp] theorem present_cmd (s : State) : (present s).cmd = s.cmd := rfl
@[simp] theorem present_kind (s : State) : (present s).kind = s.kind := rfl
@[simp] theorem present_txi (s : State) : (present s).txi = s.txi := rfl
@[simp] theorem present_tries (s : State) : (present s).tries = s.tries := rfl
@[simp] theorem present_stat (s : State) : (present s).stat = s.stat := rfl
@[simp] theorem present_stage (s : State) : (present s).stage = s.stage := rfl
@[simp] theorem present_fsmode (s : State) : (present s).fsmode = s.fsmode := rfl
@[simp] theorem present_mc (s : State) : (present s).mc = s.mc := rfl
@[simp] theorem present_att (s : State) : (present s).att = s.att := rfl
@[simp] theorem present_pc (s : State) : (present s).pc = s.pc := rfl
@[simp] theorem present_rspValid (s : State) : (present s).rspValid = true := rfl
@[simp] theorem present_rspStatus (s : State) : (present s).rspStatus = s.rspStatus := rfl
@[simp] theorem present_rspData (s : State) : (present s).rspData = s.rspData := rfl
@[simp] theorem present_rst (s : State) : (present s).rst = s.rst := rfl
@[simp] theorem present_reqs (s : State) : (present s).reqs = s.reqs := rfl
@[simp] theorem present_takes (s : State) : (present s).takes = s.takes := rfl
@[simp] theorem present_txAns (s : State) : (present s).txAns = s.txAns := rfl
@[simp] theorem present_rxAns (s : State) : (present s).rxAns = s.rxAns := rfl
@[simp] theorem present_txBuf (s : State) : (present s).txBuf = s.txBuf := rfl
@[simp] theorem present_rxBuf (s : State) : (present s).rxBuf = s.rxBuf := rfl
@[simp] theorem present_hist (s : State) : (present s).hist = s.hist := rfl
@[simp] theorem present_ret (s : State) : (present s).ret = s.ret := rfl

/-! `respond` -/

@[simp] theorem respond_cfg (st : Status) (s : State) : (respond st s).cfg = s.cfg := rfl
@[simp] theorem respond_devId (st : Status) (s : State) : (respond st s).devId = s.devId := rfl
@[simp] theorem respond_msa (st : Status) (s : State) : (respond st s).msa = s.msa := rfl
@[simp] theorem respond_ct (st : Status) (s : State) : (respond st s).ct = s.ct := rfl
@[simp] theorem respond_reading (st : Status) (s : State) : (respond st s).reading = s.reading := rfl
@[simp] theorem respond_strength (st : Status) (s : State) : (respond st s).strength = s.strength := rfl
@[simp] theorem respond_short (st : Status) (s : State) : (respond st s).short = s.short := rfl
@[simp] theorem respond_ckOk (st : Status) (s : State) : (respond st s).ckOk = s.ckOk := rfl
@[simp] theorem respond_measValid (st : Status) (s : State) : (respond st s).measValid = s.measValid := rfl
@[simp] theorem respond_pb (st : Status) (s : State) : (respond st s).pb = s.pb := rfl
@[simp] theorem respond_cx (st : Status) (s : State) : (respond st s).cx = s.cx := rfl
@[simp] theorem respond_ph (st : Status) (s : State) : (respond st s).ph = .rsp := rfl
@[simp] theorem respond_op (st : Status) (s : State) : (respond st s).op = s.op := rfl
@[simp] theorem respond_arg (st : Status) (s : State) : (respond st s).arg = s.arg := rfl
@[simp] theorem respond_cmd (st : Status) (s : State) : (respond st s).cmd = s.cmd := rfl
@[simp] theorem respond_kind (st : Status) (s : State) : (respond st s).kind = s.kind := rfl
@[simp] theorem respond_txi (st : Status) (s : State) : (respond st s).txi = s.txi := rfl
@[simp] theorem respond_tries (st : Status) (s : State) : (respond st s).tries = s.tries := rfl
@[simp] theorem respond_stat (st : Status) (s : State) : (respond st s).stat = s.stat := rfl
@[simp] theorem respond_stage (st : Status) (s : State) : (respond st s).stage = s.stage := rfl
@[simp] theorem respond_fsmode (st : Status) (s : State) : (respond st s).fsmode = s.fsmode := rfl
@[simp] theorem respond_mc (st : Status) (s : State) : (respond st s).mc = s.mc := rfl
@[simp] theorem respond_att (st : Status) (s : State) : (respond st s).att = s.att := rfl
@[simp] theorem respond_pc (st : Status) (s : State) : (respond st s).pc = s.pc := rfl
@[simp] theorem respond_rspValid (st : Status) (s : State) : (respond st s).rspValid = true := rfl
@[simp] theorem respond_rspStatus (st : Status) (s : State) : (respond st s).rspStatus = some st := rfl
@[simp] theorem respond_rspData (st : Status) (s : State) : (respond st s).rspData = s.rspData := rfl
@[simp] theorem respond_rst (st : Status) (s : State) : (respond st s).rst = s.rst := rfl
@[simp] theorem respond_reqs (st : Status) (s : State) : (respond st s).reqs = s.reqs := rfl
@[simp] theorem respond_takes (st : Status) (s : State) : (respond st s).takes = s.takes := rfl
@[simp] theorem respond_txAns (st : Status) (s : State) : (respond st s).txAns = s.txAns := rfl
@[simp] theorem respond_rxAns (st : Status) (s : State) : (respond st s).rxAns = s.rxAns := rfl
@[simp] theorem respond_txBuf (st : Status) (s : State) : (respond st s).txBuf = s.txBuf := rfl
@[simp] theorem respond_rxBuf (st : Status) (s : State) : (respond st s).rxBuf = s.rxBuf := rfl
@[simp] theorem respond_hist (st : Status) (s : State) : (respond st s).hist = s.hist := rfl
@[simp] theorem respond_ret (st : Status) (s : State) : (respond st s).ret = s.ret := rfl

/-! `startFrame` -/

@[simp] theorem startFrame_cfg (k : Kind) (s : State) : (startFrame k s).cfg = s.cfg := rfl
@[simp] theorem startFrame_devId (k : Kind) (s : State) : (startFrame k s).devId = s.devId := rfl
@[simp] theorem startFrame_msa (k : Kind) (s : State) : (startFrame k s).msa = s.msa := rfl
@[simp] theorem startFrame_ct (k : Kind) (s : State) : (startFrame k s).ct = s.ct := rfl
@[simp] theorem startFrame_reading (k : Kind) (s : State) : (startFrame k s).reading = s.reading := rfl
@[simp] theorem startFrame_strength (k : Kind) (s : State) : (startFrame k s).strength = s.strength := rfl
@[simp] theorem startFrame_short (k : Kind) (s : State) : (startFrame k s).short = s.short := rfl
@[simp] theorem startFrame_ckOk (k : Kind) (s : State) : (startFrame k s).ckOk = s.ckOk := rfl
@[simp] theorem startFrame_measValid (k : Kind) (s : State) : (startFrame k s).measValid = s.measValid := rfl
@[simp] theorem startFrame_pb (k : Kind) (s : State) : (startFrame k s).pb = s.pb := rfl
@[simp] theorem startFrame_cx (k : Kind) (s : State) : (startFrame k s).cx = s.cx := rfl
@[simp] theorem startFrame_ph (k : Kind) (s : State) : (startFrame k s).ph = .tx := rfl
@[simp] theorem startFrame_op (k : Kind) (s : State) : (startFrame k s).op = s.op := rfl
@[simp] theorem startFrame_arg (k : Kind) (s : State) : (startFrame k s).arg = s.arg := rfl
@[simp] theorem startFrame_cmd (k : Kind) (s : State) : (startFrame k s).cmd = s.cmd := rfl
@[simp] theorem startFrame_kind (k : Kind) (s : State) : (startFrame k s).kind = k := rfl
@[simp] theorem startFrame_txi (k : Kind) (s : State) : (startFrame k s).txi = 0 := rfl
@[simp] theorem startFrame_tries (k : Kind) (s : State) : (startFrame k s).tries = s.tries := rfl
@[simp] theorem startFrame_stat (k : Kind) (s : State) : (startFrame k s).stat = s.stat := rfl
@[simp] theorem startFrame_stage (k : Kind) (s : State) : (startFrame k s).stage = s.stage := rfl
@[simp] theorem startFrame_fsmode (k : Kind) (s : State) : (startFrame k s).fsmode = s.fsmode := rfl
@[simp] theorem startFrame_mc (k : Kind) (s : State) : (startFrame k s).mc = s.mc := rfl
@[simp] theorem startFrame_att (k : Kind) (s : State) : (startFrame k s).att = s.att := rfl
@[simp] theorem startFrame_pc (k : Kind) (s : State) : (startFrame k s).pc = s.pc := rfl
@[simp] theorem startFrame_rspValid (k : Kind) (s : State) : (startFrame k s).rspValid = s.rspValid := rfl
@[simp] theorem startFrame_rspStatus (k : Kind) (s : State) : (startFrame k s).rspStatus = s.rspStatus := rfl
@[simp] theorem startFrame_rspData (k : Kind) (s : State) : (startFrame k s).rspData = s.rspData := rfl
@[simp] theorem startFrame_rst (k : Kind) (s : State) : (startFrame k s).rst = s.rst := rfl
@[simp] theorem startFrame_reqs (k : Kind) (s : State) : (startFrame k s).reqs = s.reqs := rfl
@[simp] theorem startFrame_takes (k : Kind) (s : State) : (startFrame k s).takes = s.takes := rfl
@[simp] theorem startFrame_txAns (k : Kind) (s : State) : (startFrame k s).txAns = s.txAns := rfl
@[simp] theorem startFrame_rxAns (k : Kind) (s : State) : (startFrame k s).rxAns = s.rxAns := rfl
@[simp] theorem startFrame_txBuf (k : Kind) (s : State) : (startFrame k s).txBuf = s.txBuf := rfl
@[simp] theorem startFrame_rxBuf (k : Kind) (s : State) : (startFrame k s).rxBuf = s.rxBuf := rfl
@[simp] theorem startFrame_hist (k : Kind) (s : State) : (startFrame k s).hist = s.hist := rfl
@[simp] theorem startFrame_ret (k : Kind) (s : State) : (startFrame k s).ret = s.ret := rfl

/-! `bracketStart` -/

@[simp] theorem bracketStart_cfg (c : Kind) (s : State) : (bracketStart c s).cfg = s.cfg := rfl
@[simp] theorem bracketStart_devId (c : Kind) (s : State) : (bracketStart c s).devId = s.devId := rfl
@[simp] theorem bracketStart_msa (c : Kind) (s : State) : (bracketStart c s).msa = s.msa := rfl
@[simp] theorem bracketStart_ct (c : Kind) (s : State) : (bracketStart c s).ct = s.ct := rfl
@[simp] theorem bracketStart_reading (c : Kind) (s : State) : (bracketStart c s).reading = s.reading := rfl
@[simp] theorem bracketStart_strength (c : Kind) (s : State) : (bracketStart c s).strength = s.strength := rfl
@[simp] theorem bracketStart_short (c : Kind) (s : State) : (bracketStart c s).short = s.short := rfl
@[simp] theorem bracketStart_ckOk (c : Kind) (s : State) : (bracketStart c s).ckOk = s.ckOk := rfl
@[simp] theorem bracketStart_measValid (c : Kind) (s : State) : (bracketStart c s).measValid = s.measValid := rfl
@[simp] theorem bracketStart_pb (c : Kind) (s : State) : (bracketStart c s).pb = s.pb := rfl
@[simp] theorem bracketStart_cx (c : Kind) (s : State) : (bracketStart c s).cx = .enterPending := rfl
@[simp] theorem bracketStart_ph (c : Kind) (s : State) : (bracketStart c s).ph = .tx := rfl
@[simp] theorem bracketStart_op (c : Kind) (s : State) : (bracketStart c s).op = s.op := rfl
@[simp] theorem bracketStart_arg (c : Kind) (s : State) : (bracketStart c s).arg = s.arg := rfl
@[simp] theorem bracketStart_cmd (c : Kind) (s : State) : (bracketStart c s).cmd = c := rfl
@[simp] theorem bracketStart_kind (c : Kind) (s : State) : (bracketStart c s).kind = .enter := rfl
@[simp] theorem bracketStart_txi (c : Kind) (s : State) : (bracketStart c s).txi = 0 := rfl
@[simp] theorem bracketStart_tries (c : Kind) (s : State) : (bracketStart c s).tries = 1 := rfl
@[simp] theorem bracketStart_stat (c : Kind) (s : State) : (bracketStart c s).stat = s.stat := rfl
@[simp] theorem bracketStart_stage (c : Kind) (s : State) : (bracketStart c s).stage = s.stage := rfl
@[simp] theorem bracketStart_fsmode (c : Kind) (s : State) : (bracketStart c s).fsmode = s.fsmode := rfl
@[simp] theorem bracketStart_mc (c : Kind) (s : State) : (bracketStart c s).mc = s.mc := rfl
@[simp] theorem bracketStart_att (c : Kind) (s : State) : (bracketStart c s).att = s.att := rfl
@[simp] theorem bracketStart_pc (c : Kind) (s : State) : (bracketStart c s).pc = s.pc := rfl
@[simp] theorem bracketStart_rspValid (c : Kind) (s : State) : (bracketStart c s).rspValid = s.rspValid := rfl
@[simp] theorem bracketStart_rspStatus (c : Kind) (s : State) : (bracketStart c s).rspStatus = s.rspStatus := rfl
@[simp] theorem bracketStart_rspData (c : Kind) (s : State) : (bracketStart c s).rspData = s.rspData := rfl
@[simp] theorem bracketStart_rst (c : Kind) (s : State) : (bracketStart c s).rst = s.rst := rfl
@[simp] theorem bracketStart_reqs (c : Kind) (s : State) : (bracketStart c s).reqs = s.reqs := rfl
@[simp] theorem bracketStart_takes (c : Kind) (s : State) : (bracketStart c s).takes = s.takes := rfl
@[simp] theorem bracketStart_txAns (c : Kind) (s : State) : (bracketStart c s).txAns = s.txAns := rfl
@[simp] theorem bracketStart_rxAns (c : Kind) (s : State) : (bracketStart c s).rxAns = s.rxAns := rfl
@[simp] theorem bracketStart_txBuf (c : Kind) (s : State) : (bracketStart c s).txBuf = s.txBuf := rfl
@[simp] theorem bracketStart_rxBuf (c : Kind) (s : State) : (bracketStart c s).rxBuf = s.rxBuf := rfl
@[simp] theorem bracketStart_hist (c : Kind) (s : State) : (bracketStart c s).hist = s.hist := rfl
@[simp] theorem bracketStart_ret (c : Kind) (s : State) : (bracketStart c s).ret = s.ret := rfl

/-! `startModeStage` -/

@[simp] theorem startModeStage_cfg (s : State) : (startModeStage s).cfg = s.cfg := rfl
@[simp] theorem startModeStage_devId (s : State) : (startModeStage s).devId = s.devId := rfl
@[simp] theorem startModeStage_msa (s : State) : (startModeStage s).msa = s.msa := rfl
@[simp] theorem startModeStage_reading (s : State) : (startModeStage s).reading = s.reading := rfl
@[simp] theorem startModeStage_strength (s : State) : (startModeStage s).strength = s.strength := rfl
@[simp] theorem startModeStage_short (s : State) : (startModeStage s).short = s.short := rfl
@[simp] theorem startModeStage_ckOk (s : State) : (startModeStage s).ckOk = s.ckOk := rfl
@[simp] theorem startModeStage_measValid (s : State) : (startModeStage s).measValid = s.measValid := rfl
@[simp] theorem startModeStage_pb (s : State) : (startModeStage s).pb = s.pb := rfl
@[simp] theorem startModeStage_cx (s : State) : (startModeStage s).cx = .enterPending := rfl
@[simp] theorem startModeStage_ph (s : State) : (startModeStage s).ph = .tx := rfl
@[simp] theorem startModeStage_op (s : State) : (startModeStage s).op = s.op := rfl
@[simp] theorem startModeStage_arg (s : State) : (startModeStage s).arg = s.arg := rfl
@[simp] theorem startModeStage_cmd (s : State) : (startModeStage s).cmd = .mode := rfl
@[simp] theorem startModeStage_kind (s : State) : (startModeStage s).kind = .enter := rfl
@[simp] theorem startModeStage_txi (s : State) : (startModeStage s).txi = 0 := rfl
@[simp] theorem startModeStage_tries (s : State) : (startModeStage s).tries = 1 := rfl
@[simp] theorem startModeStage_stat (s : State) : (startModeStage s).stat = s.stat := rfl
@[simp] theorem startModeStage_stage (s : State) : (startModeStage s).stage = .mode := rfl
@[simp] theorem startModeStage_fsmode (s : State) : (startModeStage s).fsmode = s.fsmode := rfl
@[simp] theorem startModeStage_mc (s : State) : (startModeStage s).mc = s.mc := rfl
@[simp] theorem startModeStage_att (s : State) : (startModeStage s).att = s.att := rfl
@[simp] theorem startModeStage_pc (s : State) : (startModeStage s).pc = s.pc := rfl
@[simp] theorem startModeStage_rspValid (s : State) : (startModeStage s).rspValid = s.rspValid := rfl
@[simp] theorem startModeStage_rspStatus (s : State) : (startModeStage s).rspStatus = s.rspStatus := rfl
@[simp] theorem startModeStage_rspData (s : State) : (startModeStage s).rspData = s.rspData := rfl
@[simp] theorem startModeStage_rst (s : State) : (startModeStage s).rst = s.rst := rfl
@[simp] theorem startModeStage_reqs (s : State) : (startModeStage s).reqs = s.reqs := rfl
@[simp] theorem startModeStage_takes (s : State) : (startModeStage s).takes = s.takes := rfl
@[simp] theorem startModeStage_txAns (s : State) : (startModeStage s).txAns = s.txAns := rfl
@[simp] theorem startModeStage_rxAns (s : State) : (startModeStage s).rxAns = s.rxAns := rfl
@[simp] theorem startModeStage_txBuf (s : State) : (startModeStage s).txBuf = s.txBuf := rfl
@[simp] theorem startModeStage_rxBuf (s : State) : (startModeStage s).rxBuf = s.rxBuf := rfl
@[simp] theorem startModeStage_hist (s : State) : (startModeStage s).hist = s.hist := rfl
@[simp] theorem startModeStage_ret (s : State) : (startModeStage s).ret = s.ret := rfl

/-! `startRun` -/

@[simp] theorem startRun_cfg (m : FsMode) (s : State) : (startRun m s).cfg = s.cfg := rfl
@[simp] theorem startRun_devId (m : FsMode) (s : State) : (startRun m s).devId = s.devId := rfl
@[simp] theorem startRun_msa (m : FsMode) (s : State) : (startRun m s).msa = s.msa := rfl
@[simp] theorem startRun_ct (m : FsMode) (s : State) : (startRun m s).ct = s.ct := rfl
@[simp] theorem startRun_reading (m : FsMode) (s : State) : (startRun m s).reading = s.reading := rfl
@[simp] theorem startRun_strength (m : FsMode) (s : State) : (startRun m s).strength = s.strength := rfl
@[simp] theorem startRun_short (m : FsMode) (s : State) : (startRun m s).short = s.short := rfl
@[simp] theorem startRun_ckOk (m : FsMode) (s : State) : (startRun m s).ckOk = s.ckOk := rfl
@[simp] theorem startRun_measValid (m : FsMode) (s : State) : (startRun m s).measValid = s.measValid := rfl
@[simp] theorem startRun_pb (m : FsMode) (s : State) : (startRun m s).pb = s.pb := rfl
@[simp] theorem startRun_cx (m : FsMode) (s : State) : (startRun m s).cx = s.cx := rfl
@[simp] theorem startRun_ph (m : FsMode) (s : State) : (startRun m s).ph = .scan := rfl
@[simp] theorem startRun_op (m : FsMode) (s : State) : (startRun m s).op = s.op := rfl
@[simp] theorem startRun_arg (m : FsMode) (s : State) : (startRun m s).arg = s.arg := rfl
@[simp] theorem startRun_cmd (m : FsMode) (s : State) : (startRun m s).cmd = s.cmd := rfl
@[simp] theorem startRun_kind (m : FsMode) (s : State) : (startRun m s).kind = s.kind := rfl
@[simp] theorem startRun_txi (m : FsMode) (s : State) : (startRun m s).txi = s.txi := rfl
@[simp] theorem startRun_tries (m : FsMode) (s : State) : (startRun m s).tries = s.tries := rfl
@[simp] theorem startRun_stat (m : FsMode) (s : State) : (startRun m s).stat = s.stat := rfl
@[simp] theorem startRun_stage (m : FsMode) (s : State) : (startRun m s).stage = s.stage := rfl
@[simp] theorem startRun_fsmode (m : FsMode) (s : State) : (startRun m s).fsmode = m := rfl
@[simp] theorem startRun_mc (m : FsMode) (s : State) : (startRun m s).mc = 0 := rfl
@[simp] theorem startRun_att (m : FsMode) (s : State) : (startRun m s).att = 0 := rfl
@[simp] theorem startRun_pc (m : FsMode) (s : State) : (startRun m s).pc = 0 := rfl
@[simp] theorem startRun_rspValid (m : FsMode) (s : State) : (startRun m s).rspValid = s.rspValid := rfl
@[simp] theorem startRun_rspStatus (m : FsMode) (s : State) : (startRun m s).rspStatus = s.rspStatus := rfl
@[simp] theorem startRun_rspData (m : FsMode) (s : State) : (startRun m s).rspData = s.rspData := rfl
@[simp] theorem startRun_rst (m : FsMode) (s : State) : (startRun m s).rst = s.rst := rfl
@[simp] theorem startRun_reqs (m : FsMode) (s : State) : (startRun m s).reqs = s.reqs := rfl
@[simp] theorem startRun_takes (m : FsMode) (s : State) : (startRun m s).takes = s.takes := rfl
@[simp] theorem startRun_txAns (m : FsMode) (s : State) : (startRun m s).txAns = s.txAns := rfl
@[simp] theorem startRun_rxAns (m : FsMode) (s : State) : (startRun m s).rxAns = s.rxAns := rfl
@[simp] theorem startRun_txBuf (m : FsMode) (s : State) : (startRun m s).txBuf = s.txBuf := rfl
@[simp] theorem startRun_rxBuf (m : FsMode) (s : State) : (startRun m s).rxBuf = s.rxBuf := rfl
@[simp] theorem startRun_hist (m : FsMode) (s : State) : (startRun m s).hist = s.hist := rfl
@[simp] theorem startRun_ret (m : FsMode) (s : State) : (startRun m s).ret = s.ret := rfl

/-! `afterSearchByte` -/

@[simp] theorem afterSearchByte_cfg (b : Byte) (s : State) : (afterSearchByte b s).cfg = s.cfg := rfl
@[simp] theorem afterSearchByte_devId (b : Byte) (s : State) : (afterSearchByte b s).devId = s.devId := rfl
@[simp] theorem afterSearchByte_msa (b : Byte) (s : State) : (afterSearchByte b s).msa = s.msa := rfl
@[simp] theorem afterSearchByte_ct (b : Byte) (s : State) : (afterSearchByte b s).ct = s.ct := rfl
@[simp] theorem afterSearchByte_reading (b : Byte) (s : State) : (afterSearchByte b s).reading = s.reading := rfl
@[simp] theorem afterSearchByte_strength (b : Byte) (s : State) : (afterSearchByte b s).strength = s.strength := rfl
@[simp] theorem afterSearchByte_short (b : Byte) (s : State) : (afterSearchByte b s).short = s.short := rfl
@[simp] theorem afterSearchByte_ckOk (b : Byte) (s : State) : (afterSearchByte b s).ckOk = s.ckOk := rfl
@[simp] theorem afterSearchByte_measValid (b : Byte) (s : State) : (afterSearchByte b s).measValid = s.measValid := rfl
@[simp] theorem afterSearchByte_pb (b : Byte) (s : State) : (afterSearchByte b s).pb = s.pb := rfl
@[simp] theorem afterSearchByte_cx (b : Byte) (s : State) : (afterSearchByte b s).cx = s.cx := rfl
@[simp] theorem afterSearchByte_ph (b : Byte) (s : State) : (afterSearchByte b s).ph = s.ph := rfl
@[simp] theorem afterSearchByte_op (b : Byte) (s : State) : (afterSearchByte b s).op = s.op := rfl
@[simp] theorem afterSearchByte_arg (b : Byte) (s : State) : (afterSearchByte b s).arg = s.arg := rfl
@[simp] theorem afterSearchByte_cmd (b : Byte) (s : State) : (afterSearchByte b s).cmd = s.cmd := rfl
@[simp] theorem afterSearchByte_kind (b : Byte) (s : State) : (afterSearchByte b s).kind = s.kind := rfl
@[simp] theorem afterSearchByte_txi (b : Byte) (s : State) : (afterSearchByte b s).txi = s.txi := rfl
@[simp] theorem afterSearchByte_tries (b : Byte) (s : State) : (afterSearchByte b s).tries = s.tries := rfl
@[simp] theorem afterSearchByte_stat (b : Byte) (s : State) : (afterSearchByte b s).stat = s.stat := rfl
@[simp] theorem afterSearchByte_stage (b : Byte) (s : State) : (afterSearchByte b s).stage = s.stage := rfl
@[simp] theorem afterSearchByte_fsmode (b : Byte) (s : State) : (afterSearchByte b s).fsmode = s.fsmode := rfl
@[simp] theorem afterSearchByte_mc (b : Byte) (s : State) : (afterSearchByte b s).mc = nextMc s.fsmode s.mc b := rfl
@[simp] theorem afterSearchByte_att (b : Byte) (s : State) : (afterSearchByte b s).att = s.cfg.narrow (s.att + 1) := rfl
@[simp] theorem afterSearchByte_pc (b : Byte) (s : State) : (afterSearchByte b s).pc = s.pc := rfl
@[simp] theorem afterSearchByte_rspValid (b : Byte) (s : State) : (afterSearchByte b s).rspValid = s.rspValid := rfl
@[simp] theorem afterSearchByte_rspStatus (b : Byte) (s : State) : (afterSearchByte b s).rspStatus = s.rspStatus := rfl
@[simp] theorem afterSearchByte_rspData (b : Byte) (s : State) : (afterSearchByte b s).rspData = s.rspData := rfl
@[simp] theorem afterSearchByte_rst (b : Byte) (s : State) : (afterSearchByte b s).rst = s.rst := rfl
@[simp] theorem afterSearchByte_reqs (b : Byte) (s : State) : (afterSearchByte b s).reqs = s.reqs := rfl
@[simp] theorem afterSearchByte_takes (b : Byte) (s : State) : (afterSearchByte b s).takes = s.takes := rfl
@[simp] theorem afterSearchByte_txAns (b : Byte) (s : State) : (afterSearchByte b s).txAns = s.txAns := rfl
@[simp] theorem afterSearchByte_rxAns (b : Byte) (s : State) : (afterSearchByte b s).rxAns = s.rxAns := rfl
@[simp] theorem afterSearchByte_txBuf (b : Byte) (s : State) : (afterSearchByte b s).txBuf = s.txBuf := rfl
@[simp] theorem afterSearchByte_rxBuf (b : Byte) (s : State) : (afterSearchByte b s).rxBuf = s.rxBuf := rfl
@[simp] theorem afterSearchByte_hist (b : Byte) (s : State) : (afterSearchByte b s).hist = s.hist := rfl
@[simp] theorem afterSearchByte_ret (b : Byte) (s : State) : (afterSearchByte b s).ret = s.ret := rfl

/-! `toIdle` -/

@[simp] theorem toIdle_cfg (s : State) : (toIdle s).cfg = s.cfg := rfl
@[simp] theorem toIdle_devId (s : State) : (toIdle s).devId = s.devId := rfl
@[simp] theorem toIdle_msa (s : State) : (toIdle s).msa = s.msa := rfl
@[simp] theorem toIdle_ct (s : State) : (toIdle s).ct = s.ct := rfl
@[simp] theorem toIdle_reading (s : State) : (toIdle s).reading = s.reading := rfl
@[simp] theorem toIdle_strength (s : State) : (toIdle s).strength = s.strength := rfl
@[simp] theorem toIdle_short (s : State) : (toIdle s).short = s.short := rfl
@[simp] theorem toIdle_ckOk (s : State) : (toIdle s).ckOk = s.ckOk := rfl
@[simp] theorem toIdle_measValid (s : State) : (toIdle s).measValid = s.measValid := rfl
@[simp] theorem toIdle_pb (s : State) : (toIdle s).pb = s.pb := rfl
@[simp] theorem toIdle_cx (s : State) : (toIdle s).cx = .idle := rfl
@[simp] theorem toIdle_ph (s : State) : (toIdle s).ph = .idle := rfl
@[simp] theorem toIdle_op (s : State) : (toIdle s).op = s.op := rfl
@[simp] theorem toIdle_arg (s : State) : (toIdle s).arg = s.arg := rfl
@[simp] theorem toIdle_cmd (s : State) : (toIdle s).cmd = s.cmd := rfl
@[simp] theorem toIdle_kind (s : State) : (toIdle s).kind = s.kind := rfl
@[simp] theorem toIdle_txi (s : State) : (toIdle s).txi = s.txi := rfl
@[simp] theorem toIdle_tries (s : State) : (toIdle s).tries = s.tries := rfl
@[simp] theorem toIdle_stat (s : State) : (toIdle s).stat = s.stat := rfl
@[simp] theorem toIdle_stage (s : State) : (toIdle s).stage = s.stage := rfl
@[simp] theorem toIdle_fsmode (s : State) : (toIdle s).fsmode = s.fsmode := rfl
@[simp] theorem toIdle_mc (s : State) : (toIdle s).mc = s.mc := rfl
@[simp] theorem toIdle_att (s : State) : (toIdle s).att = s.att := rfl
@[simp] theorem toIdle_pc (s : State) : (toIdle s).pc = s.pc := rfl
@[simp] theorem toIdle_rspValid (s : State) : (toIdle s).rspValid = false := rfl
@[simp] theorem toIdle_rspStatus (s : State) : (toIdle s).rspStatus = s.rspStatus := rfl
@[simp] theorem toIdle_rspData (s : State) : (toIdle s).rspData = s.rspData := rfl
@[simp] theorem toIdle_rst (s : State) : (toIdle s).rst = s.rst := rfl
@[simp] theorem toIdle_reqs (s : State) : (toIdle s).reqs = s.reqs := rfl
@[simp] theorem toIdle_takes (s : State) : (toIdle s).takes = s.takes := rfl
@[simp] theorem toIdle_txAns (s : State) : (toIdle s).txAns = s.txAns := rfl
@[simp] theorem toIdle_rxAns (s : State) : (toIdle s).rxAns = s.rxAns := rfl
@[simp] theorem toIdle_txBuf (s : State) : (toIdle s).txBuf = s.txBuf := rfl
@[simp] theorem toIdle_rxBuf (s : State) : (toIdle s).rxBuf = s.rxBuf := rfl
@[simp] theorem toIdle_hist (s : State) : (toIdle s).hist = s.hist := rfl
@[simp] theorem toIdle_ret (s : State) : (toIdle s).ret = s.ret := rfl

/-! `decodeMeas` -/

@[simp] theorem decodeMeas_cfg (s : State) : (decodeMeas s).cfg = s.cfg := rfl
@[simp] theorem decodeMeas_devId (s : State) : (decodeMeas s).devId = s.devId := rfl
@[simp] theorem decodeMeas_msa (s : State) : (decodeMeas s).msa = s.msa := rfl
@[simp] theorem decodeMeas_ct (s : State) : (decodeMeas s).ct = s.ct := rfl
@[simp] theorem decodeMeas_reading (s : State) : (decodeMeas s).reading = some (readingOf s.pb) := rfl
@[simp] theorem decodeMeas_strength (s : State) : (decodeMeas s).strength = some (strengthOf s.pb) := rfl
@[simp] theorem decodeMeas_short (s : State) : (decodeMeas s).short = (classifyMode s.cfg s.pb[4]).or s.short := rfl
@[simp] theorem decodeMeas_ckOk (s : State) : (decodeMeas s).ckOk = some (checksumOk s.pb) := rfl
@[simp] theorem decodeMeas_measValid (s : State) : (decodeMeas s).measValid = some (measValidOf s.cfg s.pb) := rfl
@[simp] theorem decodeMeas_pb (s : State) : (decodeMeas s).pb = s.pb := rfl
@[simp] theorem decodeMeas_cx (s : State) : (decodeMeas s).cx = s.cx := rfl
@[simp] theorem decodeMeas_ph (s : State) : (decodeMeas s).ph = s.ph := rfl
@[simp] theorem decodeMeas_op (s : State) : (decodeMeas s).op = s.op := rfl
@[simp] theorem decodeMeas_arg (s : State) : (decodeMeas s).arg = s.arg := rfl
@[simp] theorem decodeMeas_cmd (s : State) : (decodeMeas s).cmd = s.cmd := rfl
@[simp] theorem decodeMeas_kind (s : State) : (decodeMeas s).kind = s.kind := rfl
@[simp] theorem decodeMeas_txi (s : State) : (decodeMeas s).txi = s.txi := rfl
@[simp] theorem decodeMeas_tries (s : State) : (decodeMeas s).tries = s.tries := rfl
@[simp] theorem decodeMeas_stat (s : State) : (decodeMeas s).stat = s.stat := rfl
@[simp] theorem decodeMeas_stage (s : State) : (decodeMeas s).stage = s.stage := rfl
@[simp] theorem decodeMeas_fsmode (s : State) : (decodeMeas s).fsmode = s.fsmode := rfl
@[simp] theorem decodeMeas_mc (s : State) : (decodeMeas s).mc = s.mc := rfl
@[simp] theorem decodeMeas_att (s : State) : (decodeMeas s).att = s.att := rfl
@[simp] theorem decodeMeas_pc (s : State) : (decodeMeas s).pc = s.pc := rfl
@[simp] theorem decodeMeas_rspValid (s : State) : (decodeMeas s).rspValid = s.rspValid := rfl
@[simp] theorem decodeMeas_rspStatus (s : State) : (decodeMeas s).rspStatus = s.rspStatus := rfl
@[simp] theorem decodeMeas_rspData (s : State) : (decodeMeas s).rspData = s.rspData := rfl
@[simp] theorem decodeMeas_rst (s : State) : (decodeMeas s).rst = s.rst := rfl
@[simp] theorem decodeMeas_reqs (s : State) : (decodeMeas s).reqs = s.reqs := rfl
@[simp] theorem decodeMeas_takes (s : State) : (decodeMeas s).takes = s.takes := rfl
@[simp] theorem decodeMeas_txAns (s : State) : (decodeMeas s).txAns = s.txAns := rfl
@[simp] theorem decodeMeas_rxAns (s : State) : (decodeMeas s).rxAns = s.rxAns := rfl
@[simp] theorem decodeMeas_txBuf (s : State) : (decodeMeas s).txBuf = s.txBuf := rfl
@[simp] theorem decodeMeas_rxBuf (s : State) : (decodeMeas s).rxBuf = s.rxBuf := rfl
@[simp] theorem decodeMeas_hist (s : State) : (decodeMeas s).hist = s.hist := rfl
@[simp] theorem decodeMeas_ret (s : State) : (decodeMeas s).ret = s.ret := rfl

end Sys2Proof.Machine
end

