-- ==== Sys2Proof/Laws/Table.lean ====
section
/-! SUPPORT. Reading the command table after a write (10_state.md R25, 30_encoding.md R102, 42_setters.md R208). -/

namespace Sys2Proof

@[simp] theorem Kind.idx_inj (k k' : Kind) : k.idx = k'.idx ↔ k = k' := by
  cases k <;> cases k' <;> decide

theorem Kind.mem_all (k : Kind) : k ∈ Kind.all := by
  cases k <;> decide

/-- `d_lo + d_hi*256` (20_memory.md R66, 43_decoder.md R233). -/
theorem toNat_half (lo hi : Byte) : (half lo hi).toNat = lo.toNat + hi.toNat * 256 := by
  have h := BitVec.toNat_append hi lo
  have e : hi.toNat <<< 8 ||| lo.toNat = hi.toNat <<< 8 + lo.toNat :=
    (Nat.shiftLeft_add_eq_or_of_lt lo.isLt hi.toNat).symm
  rw [e, Nat.shiftLeft_eq] at h
  exact h.trans (by omega)

theorem toNat_loByte (v : Half) : (loByte v).toNat = v.toNat % 256 := by
  simp [loByte, BitVec.extractLsb'_toNat]

theorem toNat_hiByte (v : Half) : (hiByte v).toNat = v.toNat / 256 := by
  have := v.isLt
  simp only [hiByte, BitVec.extractLsb'_toNat, Nat.shiftRight_eq_div_pow]
  omega

@[simp] theorem loByte_half (lo hi : Byte) : loByte (half lo hi) = lo := by
  apply BitVec.eq_of_toNat_eq
  have := lo.isLt
  rw [toNat_loByte, toNat_half]
  omega

@[simp] theorem hiByte_half (lo hi : Byte) : hiByte (half lo hi) = hi := by
  apply BitVec.eq_of_toNat_eq
  have := lo.isLt
  rw [toNat_hiByte, toNat_half]
  omega

/-- A 16-bit quantity is split into two whole bytes and assembled again without loss (R66, R208). -/
@[simp] theorem half_loByte_hiByte (v : Half) : half (loByte v) (hiByte v) = v := by
  apply BitVec.eq_of_toNat_eq
  rw [toNat_half, toNat_loByte, toNat_hiByte]
  omega

namespace Machine

theorem template_getElem (s : State) (k : Kind) (i : Fin 8) : (s.template k)[i] = s.ctByte k i := rfl

/-- A state with the same command table has the same bytes. -/
theorem ctByte_congr {s t : State} (h : t.ct = s.ct) (k : Kind) (i : Fin 8) : t.ctByte k i = s.ctByte k i := by
  simp [State.ctByte, h]

/-- Read after write of one template byte. -/
theorem ctByte_setCtByte (s : State) (k k' : Kind) (i i' : Fin 8) (b : Byte) :
    (s.setCtByte k i b).ctByte k' i' = if k = k' ∧ i = i' then b else s.ctByte k' i' := by
  simp only [State.ctByte, State.setCtByte_ct, Fin.getElem_fin, Vector.getElem_set]
  by_cases hk : k = k'
  · subst hk
    by_cases hi : i = i'
    · subst hi; simp
    · have : (i : Nat) ≠ i' := fun h => hi (Fin.ext h)
      simp [hi, this]
  · have : (k.idx : Nat) ≠ k'.idx := fun h => hk ((Kind.idx_inj k k').mp (Fin.ext h))
    simp [hk, this]

theorem ctByte_packSel (s : State) (k k' : Kind) (v : Half) (i : Fin 8) :
    (s.packSel k v).ctByte k' i = if k = k' ∧ 6 = i then loByte v else s.ctByte k' i :=
  ctByte_setCtByte ..

theorem ctByte_pack16 (s : State) (k k' : Kind) (v : Half) (i : Fin 8) :
    (s.pack16 k v).ctByte k' i =
      if k = k' ∧ 5 = i then hiByte v else if k = k' ∧ 4 = i then loByte v else s.ctByte k' i := by
  simp only [State.pack16, ctByte_setCtByte]

theorem ctByte_packFlag (s : State) (k : Kind) (v : Half) (i : Fin 8) :
    (s.packFlag v).ctByte k i = if .range = k ∧ 6 = i then s.cfg.rangeFlag v else s.ctByte k i :=
  ctByte_setCtByte ..

/-- Right after reset every template is CT_INIT's (10_state.md R45). -/
theorem template_resetWith (c : Config) (k : Kind) : (State.resetWith c).template k = c.ctInit k := by
  cases k <;> rfl

theorem ctByte_resetWith (c : Config) (k : Kind) (i : Fin 8) : (State.resetWith c).ctByte k i = (c.ctInit k)[i] := by
  rw [← template_getElem, template_resetWith]

end Machine
end Sys2Proof
end

