-- ==== Sys2Proof/Laws/Ops.lean ====
section
/-! SUPPORT. For each shared operation of Machine/Ops.lean and Machine/Setters.lean one lemma that says everything it can do
when it answers a next state. -/

namespace Sys2Proof.Machine

/-- The host's read of a written result register (10_state.md R24). -/
theorem hostRead_written {s : State} {r : ResultReg} {v : Half} (h : s.resultValue r = some v) (d : Half) :
    hostRead r d s = v := by
  simp [hostRead, h]

/-- The host's read of an unwritten one is the draw, cut to the register's width (log 16). -/
theorem hostRead_unwritten {s : State} {r : ResultReg} (h : s.resultValue r = none) (d : Half) :
    (hostRead r d s).toNat = d.toNat % 2 ^ r.width := by
  have hw : 2 ^ r.width ≤ 2 ^ 16 := Nat.pow_le_pow_right (by decide) (by cases r <;> decide)
  rw [hostRead, h, Option.getD_none, BitVec.toNat_ofNat]
  exact Nat.mod_eq_of_lt (Nat.lt_of_lt_of_le (Nat.mod_lt _ (Nat.two_pow_pos _)) hw)

theorem whenIdle_cases {s t : State} {k : State → State} (h : whenIdle s k = .next t) :
    (s.ph = .idle ∧ t = k s) ∨ (s.ph ≠ .idle ∧ t = s) := by
  unfold whenIdle at h
  split at h <;> cases h
  · exact .inl ⟨‹_›, rfl⟩
  · exact .inr ⟨‹_›, rfl⟩

theorem andThen_cases {o : Result} {k : State → Result} {t : State} (h : andThen o k = .next t) :
    ∃ m, o = .next m ∧ k m = .next t := by
  cases o with
  | next m => exact ⟨m, rfl, h⟩
  | fault r => cases h
  | refused r => cases h

/-- `Finish` (41_command_fsm.md R173). -/
theorem finish_cases (st : Status) (s : State) :
    (s.op = 6#4 ∧ s.stage = .pattern ∧ st = .success ∧ finish st s = startModeStage s) ∨
    (s.op = 6#4 ∧ s.stage = .pattern ∧ st ≠ .success ∧ finish st s = respond .errorTransmission s) ∨
    (¬ (s.op = 6#4 ∧ s.stage = .pattern) ∧ finish st s = respond st s) := by
  unfold finish
  split
  · rename_i h
    split
    · exact .inl ⟨h.1, h.2, ‹_›, rfl⟩
    · exact .inr (.inl ⟨h.1, h.2, ‹_›, rfl⟩)
  · exact .inr (.inr ⟨‹_›, rfl⟩)

/-- `StepResult` (R169 to R172). -/
theorem stepResult_cases {r : Status} {s t : State} (h : stepResult r s = .next t) :
    (s.cx = .enterPending ∧ r = .success ∧ t = startFrame s.cmd { s with cx := .commandSent }) ∨
    (s.cx = .enterPending ∧ r ≠ .success ∧ s.tries.val < 3 ∧ t = startFrame .enter { s with tries := s.tries + 1 }) ∨
    (s.cx = .enterPending ∧ r ≠ .success ∧ ¬ s.tries.val < 3 ∧
      t = finish .errorTransmission { s with cx := .failed }) ∨
    (s.cx = .commandSent ∧ s.cmd.noExit = true ∧ t = finish r { s with stat := r, cx := .done }) ∨
    (s.cx = .commandSent ∧ s.cmd.noExit = false ∧ t = startFrame .exit { s with stat := r, cx := .exitPending }) ∨
    (s.cx = .exitPending ∧ t = finish s.stat { s with cx := .done }) := by
  unfold stepResult at h
  split at h
  · rename_i hcx
    split at h
    · cases h; exact .inl ⟨hcx, ‹_›, rfl⟩
    · split at h <;> cases h
      · exact .inr (.inl ⟨hcx, ‹_›, ‹_›, rfl⟩)
      · exact .inr (.inr (.inl ⟨hcx, ‹_›, ‹_›, rfl⟩))
  · rename_i hcx
    split at h <;> cases h
    · exact .inr (.inr (.inr (.inl ⟨hcx, ‹_›, rfl⟩)))
    · exact .inr (.inr (.inr (.inr (.inl ⟨hcx, Bool.not_eq_true _ ▸ ‹¬ _›, rfl⟩))))
  · cases h; exact .inr (.inr (.inr (.inr (.inr ⟨‹_›, rfl⟩))))
  · cases h
  · cases h
  · cases h

/-- `StepResult` answers a next state in the three states in which a frame is sent (R169). -/
theorem stepResult_answers (r : Status) {s : State}
    (h : s.cx = .enterPending ∨ s.cx = .commandSent ∨ s.cx = .exitPending) : ∃ t, stepResult r s = .next t := by
  unfold stepResult
  obtain h | h | h := h <;> simp only [h] <;> (repeat' split) <;> exact ⟨_, rfl⟩

/-- The end of a run (40_frame_sync.md R140). -/
theorem endRun_cases {found : Bool} {s t : State} (h : endRun found s = .next t) :
    (s.fsmode = .ack ∧ stepResult (if found then ackStatus s.pb[0] else .errorTransmission) s = .next t) ∨
    (s.fsmode = .meas ∧ found = true ∧ t = present (decodeMeas s)) ∨
    (s.fsmode = .meas ∧ found = false ∧ t = present { s with measValid := some false }) := by
  unfold endRun at h
  split at h
  · exact .inl ⟨‹_›, h⟩
  · cases h
    cases found
    · exact .inr (.inr ⟨‹_›, rfl, rfl⟩)
    · exact .inr (.inl ⟨‹_›, rfl, rfl⟩)

/-- The search step (R135). -/
theorem searchStep_cases {b : Byte} {s t : State} (h : searchStep b s = .next t) :
    ((afterSearchByte b s).mc.val = prefixLen s.fsmode ∧ t = { afterSearchByte b s with pc := 0, ph := .pay }) ∨
    ((afterSearchByte b s).mc.val ≠ prefixLen s.fsmode ∧ (afterSearchByte b s).att = s.msa ∧
      endRun false (afterSearchByte b s) = .next t) ∨
    ((afterSearchByte b s).mc.val ≠ prefixLen s.fsmode ∧ (afterSearchByte b s).att ≠ s.msa ∧
      t = afterSearchByte b s) := by
  unfold searchStep searchTests at h
  split at h
  · cases h; exact .inl ⟨‹_›, rfl⟩
  · split at h
    · exact .inr (.inl ⟨‹_›, ‹_›, h⟩)
    · cases h; exact .inr (.inr ⟨‹_›, ‹_›, rfl⟩)

/-- The payload step (R138). -/
theorem payloadStep_cases {b : Byte} {s t : State} (h : payloadStep b s = .next t) :
    ((s.pc + 1).val = payloadLen s.fsmode ∧ endRun true (s.pushPayload b) = .next t) ∨
    ((s.pc + 1).val ≠ payloadLen s.fsmode ∧ t = s.pushPayload b) := by
  unfold payloadStep payloadTest at h
  split at h
  · exact .inl ⟨‹_›, h⟩
  · cases h; exact .inr ⟨‹_›, rfl⟩

/-- After a byte the transport took (41_command_fsm.md R166). -/
theorem byteSent_cases {s t : State} (h : byteSent s = .next t) :
    (s.txi.val < 7 ∧ t = { s with txi := s.txi + 1 }) ∨
    (¬ s.txi.val < 7 ∧ s.cx = .exitPending ∧ s.cfg.exitAckScan = false ∧ stepResult .success s = .next t) ∨
    (¬ s.txi.val < 7 ∧ ¬ (s.cx = .exitPending ∧ s.cfg.exitAckScan = false) ∧ t = startRun .ack s) := by
  unfold byteSent at h
  split at h
  · cases h; exact .inl ⟨‹_›, rfl⟩
  · split at h
    · rename_i hc
      exact .inr (.inl ⟨‹_›, hc.1, hc.2, h⟩)
    · cases h; exact .inr (.inr ⟨‹_›, ‹_›, rfl⟩)

/-- `TxDone` (R166). -/
theorem txDone_cases {s t : State} (h : txDone s = .next t) :
    s.ph = .tx ∧ byteSent (s.observe (.tx s.devId s.txData .done)) = .next t := by
  unfold txDone at h
  split at h
  · exact ⟨‹_›, h⟩
  all_goals cases h

/-- `TxFail` (R167). -/
theorem txFail_cases {s t : State} (h : txFail s = .next t) :
    s.ph = .tx ∧ stepResult .errorTransmission (s.observe (.tx s.devId s.txData .fail)) = .next t := by
  unfold txFail at h
  split at h
  · exact ⟨‹_›, h⟩
  all_goals cases h

/-- `RxByte(b)` (40_frame_sync.md R135, R138). -/
theorem rxByte_cases {b : Byte} {s t : State} (h : rxByte b s = .next t) :
    (s.ph = .scan ∧ searchStep b (s.observe (.rx s.devId (.byte b))) = .next t) ∨
    (s.ph = .pay ∧ payloadStep b (s.observe (.rx s.devId (.byte b))) = .next t) := by
  unfold rxByte at h
  split at h
  · exact .inl ⟨‹_›, h⟩
  · exact .inr ⟨‹_›, h⟩
  all_goals cases h

/-- `RxFail` (R139). -/
theorem rxFail_cases {s t : State} (h : rxFail s = .next t) :
    (s.ph = .scan ∨ s.ph = .pay) ∧ endRun false (s.observe (.rx s.devId .fail)) = .next t := by
  unfold rxFail at h
  split at h
  · exact ⟨.inl ‹_›, h⟩
  · exact ⟨.inr ‹_›, h⟩
  all_goals cases h

/-- `RspTaken` (10_state.md R41). -/
theorem rspTaken_cases {s t : State} (h : rspTaken s = .next t) :
    s.ph = .rsp ∧ t = toIdle (s.observe (.rsp s.response)) := by
  unfold rspTaken at h
  split at h
  · cases h; exact ⟨‹_›, rfl⟩
  all_goals cases h

/-- `TxDone` in PH_TX. -/
theorem txDone_tx {s : State} (hp : s.ph = .tx) : txDone s = byteSent (s.observe (.tx s.devId s.txData .done)) := by
  unfold txDone; rw [hp]

/-- `TxFail` in PH_TX. -/
theorem txFail_tx {s : State} (hp : s.ph = .tx) :
    txFail s = stepResult .errorTransmission (s.observe (.tx s.devId s.txData .fail)) := by
  unfold txFail; rw [hp]

/-- The first n bytes of the rest of a frame, and then one `TxDone` more, that of byte 7. -/
theorem sendRest_succ : ∀ (n : Nat) (s : State), s.ph = .tx → s.txi.val + n = 7 →
    sendRest (n + 1) s = txDone { s with
      txi := 7
      hist := (((byteIndexes.drop s.txi.val).take n).map fun j => Obs.tx s.devId (s.ctByte s.kind j) .done).reverse ++ s.hist }
  | 0, s, _, h => by
      have ht : s.txi = 7 := Fin.ext (by simpa using h)
      have e : ({ s with txi := 7, hist := [] ++ s.hist } : State) = s := by rw [← ht]; rfl
      simp only [List.take_zero, List.map_nil, List.reverse_nil]
      rw [e]
      simp only [sendRest]
      cases txDone s <;> rfl
  | n + 1, s, hp, h => by
      have h1 : s.txi.val < 7 := by omega
      have e1 : (s.txi + 1).val = s.txi.val + 1 := Fin.val_add_one_of_lt' (by omega)
      have e : txDone s = .next { s with txi := s.txi + 1, hist := .tx s.devId s.txData .done :: s.hist } := by
        rw [txDone_tx hp, byteSent, if_pos (show (s.observe (.tx s.devId s.txData .done)).txi.val < 7 from h1)]
        rfl
      rw [sendRest, e]
      refine (sendRest_succ n { s with txi := s.txi + 1, hist := .tx s.devId s.txData .done :: s.hist } hp
        (by show (s.txi + 1).val + n = 7; omega)).trans ?_
      have hd : ∀ i : Fin 8, i.val < 8 → byteIndexes.drop i.val = i :: byteIndexes.drop (i.val + 1) := by decide
      have hl := hd s.txi s.txi.isLt
      simp only [e1, hl]
      simp [State.txData, State.ctByte]

/-- The rest of a frame, taken as one buffer call: the bytes TXI to 6, then the `TxDone` of byte 7. -/
theorem sendRest_tx {s : State} (hp : s.ph = .tx) :
    sendRest (8 - s.txi.val) s = txDone { s with
      txi := 7
      hist := (((byteIndexes.drop s.txi.val).take (7 - s.txi.val)).map
        fun j => Obs.tx s.devId (s.ctByte s.kind j) .done).reverse ++ s.hist } := by
  have := s.txi.isLt
  have e : 8 - s.txi.val = (7 - s.txi.val) + 1 := by omega
  rw [e, sendRest_succ _ _ hp (by omega)]

/-- A property that `TxDone` keeps is kept by the taking of the rest of a frame. -/
theorem sendRest_keeps {P : State → Prop} (hk : ∀ s t, P s → txDone s = .next t → P t) :
    ∀ {n : Nat} {s t : State}, P s → sendRest n s = .next t → P t
  | 0, _, _, hp, h => by cases h; exact hp
  | _ + 1, s, t, hp, h => by
      obtain ⟨m, hm, ht⟩ := andThen_cases (k := sendRest _) h
      exact sendRest_keeps hk (hk s m hp hm) ht

/-- A property that `RxByte` keeps, and that says nothing of the unread stream, is kept by a delivery of bytes. -/
theorem deliver_keeps {P : State → Prop} (hk : ∀ b s t, P s → rxByte b s = .next t → P t)
    (he : ∀ s as, P s → P { s with rxAns := as }) :
    ∀ {bs : List Byte} {s t : State}, P s → deliver bs s = .next t → P t
  | [], _, _, hp, h => by cases h; exact hp
  | b :: bs, s, t, hp, h => by
      unfold deliver at h
      split at h
      · obtain ⟨m, hm, ht⟩ := andThen_cases (k := deliver bs) h
        exact deliver_keeps hk he (hk b s m hp hm) ht
      · cases h; exact he s _ hp

end Sys2Proof.Machine
end

