-- ==== Sys2Proof/Laws/PerInstr.lean ====
section
/-! SUPPORT. The family TableRow: the bytes of an instruction carry the fixed bits of its row of spec/opcode_table.json. -/

namespace Sys2Proof.Laws.TableRow

/-- The fixed bits of a row, as (offset, byte) pairs: `match` under `mask`. Byte 2 of a request word is the operation code,
its unused high half being 0 (log 19). A procedure has none (30_encoding.md R111). -/
def fixedBytes : Instr → List (Nat × Byte)
  | .readMeasurement _ => [(2, 0x00#8)]
  | .getBudget _ => [(2, 0x01#8)]
  | .setOutputFormat _ => [(2, 0x02#8)]
  | .setOutputPeriod _ => [(2, 0x03#8)]
  | .setDistanceUnit _ => [(2, 0x04#8)]
  | .setDetectionPattern _ => [(2, 0x05#8)]
  | .setDistanceMode _ => [(2, 0x06#8)]
  | .setRangeLimit _ => [(2, 0x07#8)]
  | .setStrengthLow _ => [(2, 0x08#8)]
  | .setStrengthHigh _ => [(2, 0x09#8)]
  | .setBaudRate _ => [(2, 0x0A#8)]
  | .setTriggerSource _ => [(2, 0x0B#8)]
  | .triggerMeasurement _ => [(2, 0x0C#8)]
  | .resetDevice _ => [(2, 0x0D#8)]
  | .setBudget _ => [(2, 0x0E#8)]
  | .reservedOp15 _ => [(2, 0x0F#8)]
  | .cmdEnter | .cmdExit | .cmdFormat _ | .cmdPeriod _ | .cmdUnit _ | .cmdPattern _ | .cmdMode _
  | .cmdRange _ _ | .cmdStrLo _ | .cmdStrHi _ | .cmdBaud _ | .cmdTrigSrc _ | .cmdTrigger | .cmdReset =>
      [(0, 0x42#8), (1, 0x57#8), (2, 0x02#8), (3, 0x00#8)]
  | .ackSuccess => [(0, 0x42#8), (1, 0x57#8), (2, 0x02#8), (3, 0x01#8)]
  | .ackErrorInstruction => [(0, 0x42#8), (1, 0x57#8), (2, 0x02#8), (3, 0xFF#8)]
  | .ackErrorParameter => [(0, 0x42#8), (1, 0x57#8), (2, 0x02#8), (3, 0x0F#8)]
  | .ackOther _ => [(0, 0x42#8), (1, 0x57#8), (2, 0x02#8)]
  | .measFrame _ _ _ _ _ _ _ => [(0, 0x59#8), (1, 0x59#8)]
  | .sync _ | .syncAck | .bracket _ | .decodePayload | .checksum | .extract => []

/-- The encoding of i has the fixed bytes of its row, for every instance. -/
def Statement (i : Instr) : Prop := ∀ c : Config,
  (fixedBytes i).map (fun p => (encode c i)[p.1]?) = (fixedBytes i).map fun p => some p.2

theorem readMeasurement (arg : Half) : Statement (.readMeasurement arg) := fun _ => rfl
theorem getBudget (arg : Half) : Statement (.getBudget arg) := fun _ => rfl
theorem setOutputFormat (arg : Half) : Statement (.setOutputFormat arg) := fun _ => rfl
theorem setOutputPeriod (arg : Half) : Statement (.setOutputPeriod arg) := fun _ => rfl
theorem setDistanceUnit (arg : Half) : Statement (.setDistanceUnit arg) := fun _ => rfl
theorem setDetectionPattern (arg : Half) : Statement (.setDetectionPattern arg) := fun _ => rfl
theorem setDistanceMode (arg : Half) : Statement (.setDistanceMode arg) := fun _ => rfl
theorem setRangeLimit (arg : Half) : Statement (.setRangeLimit arg) := fun _ => rfl
theorem setStrengthLow (arg : Half) : Statement (.setStrengthLow arg) := fun _ => rfl
theorem setStrengthHigh (arg : Half) : Statement (.setStrengthHigh arg) := fun _ => rfl
theorem setBaudRate (arg : Half) : Statement (.setBaudRate arg) := fun _ => rfl
theorem setTriggerSource (arg : Half) : Statement (.setTriggerSource arg) := fun _ => rfl
theorem triggerMeasurement (arg : Half) : Statement (.triggerMeasurement arg) := fun _ => rfl
theorem resetDevice (arg : Half) : Statement (.resetDevice arg) := fun _ => rfl
theorem setBudget (arg : Half) : Statement (.setBudget arg) := fun _ => rfl
theorem reservedOp15 (arg : Half) : Statement (.reservedOp15 arg) := fun _ => rfl
theorem cmdEnter : Statement (.cmdEnter) := fun _ => rfl
theorem cmdExit : Statement (.cmdExit) := fun _ => rfl
theorem cmdFormat (sel : Byte) : Statement (.cmdFormat sel) := fun _ => rfl
theorem cmdPeriod (v : Half) : Statement (.cmdPeriod v) := fun _ => rfl
theorem cmdUnit (sel : Byte) : Statement (.cmdUnit sel) := fun _ => rfl
theorem cmdPattern (sel : Byte) : Statement (.cmdPattern sel) := fun _ => rfl
theorem cmdMode (sel : Byte) : Statement (.cmdMode sel) := fun _ => rfl
theorem cmdRange (mm : Half) (flag : Byte) : Statement (.cmdRange mm flag) := fun _ => rfl
theorem cmdStrLo (v : Half) : Statement (.cmdStrLo v) := fun _ => rfl
theorem cmdStrHi (v : Half) : Statement (.cmdStrHi v) := fun _ => rfl
theorem cmdBaud (sel : Byte) : Statement (.cmdBaud sel) := fun _ => rfl
theorem cmdTrigSrc (sel : Byte) : Statement (.cmdTrigSrc sel) := fun _ => rfl
theorem cmdTrigger : Statement (.cmdTrigger) := fun _ => rfl
theorem cmdReset : Statement (.cmdReset) := fun _ => rfl
theorem ackSuccess : Statement (.ackSuccess) := fun _ => rfl
theorem ackErrorInstruction : Statement (.ackErrorInstruction) := fun _ => rfl
theorem ackErrorParameter : Statement (.ackErrorParameter) := fun _ => rfl
theorem ackOther (st : Byte) : Statement (.ackOther st) := fun _ => rfl
theorem measFrame (dLo dHi sLo sHi mode res ck : Byte) : Statement (.measFrame dLo dHi sLo sHi mode res ck) := fun _ => rfl
theorem sync (m : FsMode) : Statement (.sync m) := fun _ => rfl
theorem syncAck : Statement (.syncAck) := fun _ => rfl
theorem bracket (k : Kind) : Statement (.bracket k) := fun _ => rfl
theorem decodePayload : Statement (.decodePayload) := fun _ => rfl
theorem checksum : Statement (.checksum) := fun _ => rfl
theorem extract : Statement (.extract) := fun _ => rfl

end Sys2Proof.Laws.TableRow
end

