-- ==== Sys2Proof/Laws/Step.lean ====
section
/-! SUPPORT. What `exec` of a whole frame and one `step` can do, said once in terms of the events of 10_state.md R41, so that no
proof about a step unfolds the sequencer. -/

namespace Sys2Proof.Machine

/-- The general form of a command-issuing operation (42_setters.md R190, R191). -/
theorem commandOp_cases {op : BitVec 4} {arg : Half} {valid : Bool} {write : State → State} {k : Kind} {s t : State}
    (h : commandOp op arg valid write k s = .next t) :
    (s.ph ≠ .idle ∧ t = s) ∨
    (s.ph = .idle ∧ valid = true ∧ t = bracketStart k (write (acceptReq op arg s))) ∨
    (s.ph = .idle ∧ valid = false ∧ t = respond .errorParameter (acceptReq op arg s)) := by
  obtain ⟨hp, rfl⟩ | ⟨hp, rfl⟩ := whenIdle_cases h
  · cases valid
    · exact .inr (.inr ⟨hp, rfl, rfl⟩)
    · exact .inr (.inl ⟨hp, rfl, rfl⟩)
  · exact .inl ⟨hp, rfl⟩

/-- The transport takes the rest of a frame, or the frame is not on the port (20_memory.md R61, log 12). -/
theorem takeFrame_cases {k : Kind} {bytes : Bool} {s t : State} (h : takeFrame k bytes s = .next t) :
    s.ph = .tx ∧ s.kind = k ∧ bytes = true ∧ sendRest (8 - s.txi.val) s = .next t := by
  unfold takeFrame at h
  split at h
  · rename_i hc
    simp only [Bool.and_eq_true, State.offers, beq_iff_eq] at hc
    exact ⟨hc.1.1, hc.1.2, hc.2, h⟩
  · cases h

/-- Executing the frame that is on the TX port is sending the rest of it. -/
theorem exec_offeredFrame {s : State} (hp : s.ph = .tx) : exec s.offeredFrame s = sendRest (8 - s.txi.val) s := by
  unfold State.offeredFrame
  cases hk : s.kind <;>
    simp [cmdInstr, exec, execCmdEnter, execCmdExit, execCmdFormat, execCmdPeriod, execCmdUnit, execCmdPattern,
      execCmdMode, execCmdRange, execCmdStrLo, execCmdStrHi, execCmdBaud, execCmdTrigSrc, execCmdTrigger, execCmdReset,
      takeFrame, State.offers, hp, hk, State.holds16, State.ctByte, State.template]

/-- Executing a received frame is delivering its bytes. -/
theorem exec_received {i : Instr} {bs : List Byte} (h : receivedBytes i = some bs) (s : State) :
    exec i s = deliver bs s := by
  cases i <;> simp [receivedBytes] at h <;> subst h <;> rfl

theorem receivedBytes_ackInstr (st : Byte) : receivedBytes (ackInstr st) = some [0x42#8, 0x57#8, 0x02#8, st] := by
  unfold ackInstr
  split
  · subst_vars; rfl
  · split
    · subst_vars; rfl
    · split
      · subst_vars; rfl
      · rfl

theorem decode_ack4_bytes {c : Config} {bs : List Byte} {i : Instr} (h : decode c .ack4 bs = .ok i) :
    receivedBytes i = some bs := by
  unfold decode at h
  split at h <;> try contradiction
  rename_i b0 b1 b2 st _
  by_cases hm : [b0, b1, b2] = prefixOf .ack
  · rw [if_pos hm] at h
    cases h
    simp only [prefixOf, List.cons.injEq] at hm
    obtain ⟨rfl, rfl, rfl, -⟩ := hm
    exact receivedBytes_ackInstr _
  · rw [if_neg hm] at h; cases h

theorem decode_meas9_bytes {c : Config} {bs : List Byte} {i : Instr} (h : decode c .meas9 bs = .ok i) :
    receivedBytes i = some bs := by
  unfold decode at h
  split at h <;> try contradiction
  rename_i b0 b1 dLo dHi sLo sHi mode res ck _
  by_cases hm : [b0, b1] = prefixOf .meas
  · rw [if_pos hm] at h
    cases h
    simp only [prefixOf, List.cons.injEq] at hm
    obtain ⟨rfl, rfl, -⟩ := hm
    rfl
  · rw [if_neg hm] at h; cases h

/-- A decoded received frame has the bytes it was decoded from. -/
theorem decodeReceived_bytes {c : Config} {bs : List Byte} {i : Instr} (h : decodeReceived c bs = some i) :
    receivedBytes i = some bs := by
  unfold decodeReceived at h
  split at h
  · rename_i hd; cases h; exact decode_ack4_bytes hd
  · cases hd : decode c .meas9 bs with
    | ok j => rw [hd] at h; cases h; exact decode_meas9_bytes hd
    | error e => rw [hd] at h; cases h

/-- Everything an accepted request word can do in PH_IDLE (41_command_fsm.md R161): a property of what each start rule leaves
is a property of the next state. -/
theorem request_cases {P : State → Prop} {w : BitVec 20} {s t : State} (h : exec (decodeReqWord w) s = .next t)
    (hp : s.ph = .idle)
    (hread : ∀ arg, P (startRun .meas (acceptReq 0 arg s)))
    (hget : ∀ arg, P (respond .success { acceptReq 1 arg s with rspData := some (BitVec.ofNat 16 s.msa) }))
    (hset : ∀ arg, P (respond .success { acceptReq 14 arg s with msa := budgetOf s.cfg arg }))
    (hsel : ∀ op arg k, (op, k) ∈ [((2 : BitVec 4), Kind.format), (4, .unit), (5, .pattern), (10, .baud), (11, .trigSrc)] →
      P (bracketStart k ((acceptReq op arg s).packSel k arg)))
    (hnum : ∀ op arg k, (op, k) ∈ [((3 : BitVec 4), Kind.period), (8, .strLo), (9, .strHi)] →
      P (bracketStart k ((acceptReq op arg s).pack16 k arg)))
    (hrange : ∀ arg, P (bracketStart .range (((acceptReq 7 arg s).pack16 .range arg).packFlag arg)))
    (hmode : ∀ arg, P (bracketStart .pattern
      ({ acceptReq 6 arg s with stage := .pattern }.setCtByte .pattern 6 s.cfg.patternFix)))
    (hfix : ∀ op arg k, (op, k) ∈ [((12 : BitVec 4), Kind.trigger), (13, .reset)] →
      P (bracketStart k (acceptReq op arg s)))
    (hrej : ∀ op arg, op ∈ [(3 : BitVec 4), 7, 8, 9] → P (respond .errorParameter (acceptReq op arg s))) : P t := by
  have co : ∀ {op : BitVec 4} {arg : Half} {valid : Bool} {write : State → State} {k : Kind},
      commandOp op arg valid write k s = .next t → P (bracketStart k (write (acceptReq op arg s))) →
      (valid = false → P (respond .errorParameter (acceptReq op arg s))) → P t := by
    intro op arg valid write k h a b
    obtain ⟨h, _⟩ | ⟨_, _, rfl⟩ | ⟨_, hv, rfl⟩ := commandOp_cases h
    · exact absurd hp h
    · exact a
    · exact b hv
  have wi : ∀ {k : State → State}, whenIdle s k = .next t → P (k s) → P t := by
    intro k h hk
    obtain ⟨_, rfl⟩ | ⟨h, _⟩ := whenIdle_cases h
    · exact hk
    · exact absurd hp h
  unfold decodeReqWord at h
  split at h <;> dsimp only [exec] at h
  · exact wi h (hread _)
  · exact wi h (hget _)
  · exact co h (hsel 2 _ .format (by decide)) nofun
  · exact co h (hnum 3 _ .period (by decide)) fun _ => hrej 3 _ (by decide)
  · exact co h (hsel 4 _ .unit (by decide)) nofun
  · exact co h (hsel 5 _ .pattern (by decide)) nofun
  · exact co h (hmode _) nofun
  · exact co h (hrange _) fun _ => hrej 7 _ (by decide)
  · exact co h (hnum 8 _ .strLo (by decide)) fun _ => hrej 8 _ (by decide)
  · exact co h (hnum 9 _ .strHi (by decide)) fun _ => hrej 9 _ (by decide)
  · exact co h (hsel 10 _ .baud (by decide)) nofun
  · exact co h (hsel 11 _ .trigSrc (by decide)) nofun
  · exact co h (hfix 12 _ .trigger (by decide)) nofun
  · exact co h (hfix 13 _ .reset (by decide)) nofun
  · exact wi h (hset _)
  · cases h

/-- A property that says nothing of the environment's lists, and that every event of R41 keeps, is kept by every step. -/
theorem step_keeps {P : State → Prop}
    (henv : ∀ s rst reqs takes txAns rxAns txBuf rxBuf, P s →
      P { s with rst := rst, reqs := reqs, takes := takes, txAns := txAns, rxAns := rxAns, txBuf := txBuf, rxBuf := rxBuf })
    (hreset : ∀ s, P s → P (resetEvent s))
    (hreq : ∀ w s t, P s → s.ph = .idle → exec (decodeReqWord w) s = .next t → P t)
    (htxDone : ∀ s t, P s → txDone s = .next t → P t)
    (htxFail : ∀ s t, P s → txFail s = .next t → P t)
    (hrxByte : ∀ b s t, P s → rxByte b s = .next t → P t)
    (hrxFail : ∀ s t, P s → rxFail s = .next t → P t)
    (htake : ∀ s t, P s → rspTaken s = .next t → P t)
    {s t : State} (hp : P s) (h : step s = .next t) : P t := by
  have hdel : ∀ {bs : List Byte} {s t : State}, P s → deliver bs s = .next t → P t := fun hp h =>
    deliver_keeps hrxByte (fun s as hs => henv s s.rst s.reqs s.takes s.txAns as s.txBuf s.rxBuf hs) hp h
  have hphase : ∀ {s : State}, P s → phaseStep s = .next t → P t := by
    intro s hp h
    unfold phaseStep at h
    split at h
    · rename_i hph
      unfold idlePhase at h
      split at h
      · cases h; exact hp
      · rename_i rest _
        exact hreq _ _ _ (henv s s.rst rest s.takes s.txAns s.rxAns s.txBuf s.rxBuf hp) hph h
    · rename_i hph
      unfold txPhase at h
      split at h
      · have he := henv s s.rst s.reqs s.takes s.txAns s.rxAns false s.rxBuf hp
        have hx := exec_offeredFrame (s := { s with txBuf := false }) hph
        have hx' : exec s.offeredFrame { s with txBuf := false } = sendRest (8 - s.txi.val) { s with txBuf := false } := hx
        rw [hx'] at h
        exact sendRest_keeps htxDone he h
      · split at h
        · cases h; exact hp
        · rename_i as _
          exact htxDone _ _ (henv s s.rst s.reqs s.takes as s.rxAns s.txBuf s.rxBuf hp) h
        · rename_i as _
          exact htxFail _ _ (henv s s.rst s.reqs s.takes as s.rxAns s.txBuf s.rxBuf hp) h
    all_goals
      first
        | (unfold rxPhase at h
           split at h
           · have he := henv s s.rst s.reqs s.takes s.txAns s.rxAns s.txBuf [] hp
             split at h
             · rename_i hd
               rw [exec_received (decodeReceived_bytes hd)] at h
               exact hdel he h
             · exact hdel he h
           · split at h
             · cases h; exact hp
             · rename_i as _
               exact hrxByte _ _ _ (henv s s.rst s.reqs s.takes s.txAns as s.txBuf s.rxBuf hp) h
             · rename_i as _
               exact hrxFail _ _ (henv s s.rst s.reqs s.takes s.txAns as s.txBuf s.rxBuf hp) h)
        | (unfold rspPhase at h
           split at h
           · cases h; exact hp
           · rename_i n _
             exact htake _ _ (henv s s.rst s.reqs n s.txAns s.rxAns s.txBuf s.rxBuf hp) h)
  unfold step sampledStep at h
  split at h
  · cases h
    rename_i rest _
    exact hreset _ (henv s rest s.reqs s.takes s.txAns s.rxAns s.txBuf s.rxBuf hp)
  · rename_i rest _
    exact hphase (henv s rest s.reqs s.takes s.txAns s.rxAns s.txBuf s.rxBuf hp) h
  · exact hphase hp h

/-- Everything the phases of a run can do in one step. -/
theorem rxPhase_cases {s t : State} (h : rxPhase s = .next t) :
    (s.rxBuf ≠ [] ∧ deliver s.rxBuf { s with rxBuf := [] } = .next t) ∨
    (s.rxBuf = [] ∧ s.rxAns = [] ∧ t = s) ∨
    (s.rxBuf = [] ∧ ∃ b as, s.rxAns = .byte b :: as ∧ rxByte b { s with rxAns := as } = .next t) ∨
    (s.rxBuf = [] ∧ ∃ as, s.rxAns = .fail :: as ∧ rxFail { s with rxAns := as } = .next t) := by
  unfold rxPhase at h
  split at h
  · rename_i b bs hb
    refine .inl ⟨by rw [hb]; simp, ?_⟩
    rw [hb]
    split at h
    · rename_i hd
      rw [exec_received (decodeReceived_bytes hd)] at h
      exact h
    · exact h
  · split at h
    · cases h; exact .inr (.inl ⟨‹_›, ‹_›, rfl⟩)
    · exact .inr (.inr (.inl ⟨‹_›, _, _, ‹_›, h⟩))
    · exact .inr (.inr (.inr ⟨‹_›, _, ‹_›, h⟩))

/-- Everything a step without reset can do. -/
theorem step_cases {s t : State} (hn : s.rst.head? ≠ some true) (h : step s = .next t) :
    (s.ph = .idle ∧ s.reqs = [] ∧ t = { s with rst := s.rst.tail }) ∨
    (s.ph = .idle ∧ ∃ w rest, s.reqs = w :: rest ∧
      exec (decodeReqWord w) { s with rst := s.rst.tail, reqs := rest } = .next t) ∨
    (s.ph = .tx ∧ s.txBuf = true ∧ sendRest (8 - s.txi.val) { s with rst := s.rst.tail, txBuf := false } = .next t) ∨
    (s.ph = .tx ∧ s.txBuf = false ∧ s.txAns = [] ∧ t = { s with rst := s.rst.tail }) ∨
    (s.ph = .tx ∧ s.txBuf = false ∧ ∃ as, s.txAns = .done :: as ∧
      txDone { s with rst := s.rst.tail, txAns := as } = .next t) ∨
    (s.ph = .tx ∧ s.txBuf = false ∧ ∃ as, s.txAns = .fail :: as ∧
      txFail { s with rst := s.rst.tail, txAns := as } = .next t) ∨
    ((s.ph = .scan ∨ s.ph = .pay) ∧ s.rxBuf ≠ [] ∧
      deliver s.rxBuf { s with rst := s.rst.tail, rxBuf := [] } = .next t) ∨
    ((s.ph = .scan ∨ s.ph = .pay) ∧ s.rxBuf = [] ∧ s.rxAns = [] ∧ t = { s with rst := s.rst.tail }) ∨
    ((s.ph = .scan ∨ s.ph = .pay) ∧ s.rxBuf = [] ∧ ∃ b as, s.rxAns = .byte b :: as ∧
      rxByte b { s with rst := s.rst.tail, rxAns := as } = .next t) ∨
    ((s.ph = .scan ∨ s.ph = .pay) ∧ s.rxBuf = [] ∧ ∃ as, s.rxAns = .fail :: as ∧
      rxFail { s with rst := s.rst.tail, rxAns := as } = .next t) ∨
    (s.ph = .rsp ∧ s.takes = 0 ∧ t = { s with rst := s.rst.tail }) ∨
    (s.ph = .rsp ∧ ∃ n, s.takes = n + 1 ∧ rspTaken { s with rst := s.rst.tail, takes := n } = .next t) := by
  have e : step s = phaseStep { s with rst := s.rst.tail } := by
    unfold step sampledStep
    split
    · rename_i heq; rw [heq] at hn; exact absurd rfl hn
    · rename_i heq; rw [heq]; rfl
    · rename_i heq; rw [heq]; exact congrArg phaseStep (congrArg (fun r => { s with rst := r }) heq)
  rw [e] at h
  unfold phaseStep at h
  split at h
  · rename_i hp
    unfold idlePhase at h
    split at h
    · cases h; exact .inl ⟨hp, ‹_›, rfl⟩
    · exact .inr (.inl ⟨hp, _, _, ‹_›, h⟩)
  · rename_i hp
    unfold txPhase at h
    split at h
    · have hx : exec s.offeredFrame { s with rst := s.rst.tail, txBuf := false } =
          sendRest (8 - s.txi.val) { s with rst := s.rst.tail, txBuf := false } :=
        exec_offeredFrame (s := { s with rst := s.rst.tail, txBuf := false }) hp
      exact .inr (.inr (.inl ⟨hp, ‹_›, hx ▸ h⟩))
    · have hb : s.txBuf = false := Bool.not_eq_true _ ▸ ‹¬ _›
      split at h
      · cases h; exact .inr (.inr (.inr (.inl ⟨hp, hb, ‹_›, rfl⟩)))
      · exact .inr (.inr (.inr (.inr (.inl ⟨hp, hb, _, ‹_›, h⟩))))
      · exact .inr (.inr (.inr (.inr (.inr (.inl ⟨hp, hb, _, ‹_›, h⟩)))))
  all_goals try
    (rename_i hp
     have hq : s.ph = .scan ∨ s.ph = .pay := by first | exact .inl hp | exact .inr hp
     obtain ⟨hb, h⟩ | ⟨hb, ha, rfl⟩ | ⟨hb, b, as, ha, h⟩ | ⟨hb, as, ha, h⟩ := rxPhase_cases h
     · exact .inr (.inr (.inr (.inr (.inr (.inr (.inl ⟨hq, hb, h⟩))))))
     · exact .inr (.inr (.inr (.inr (.inr (.inr (.inr (.inl ⟨hq, hb, ha, rfl⟩)))))))
     · exact .inr (.inr (.inr (.inr (.inr (.inr (.inr (.inr (.inl ⟨hq, hb, b, as, ha, h⟩))))))))
     · exact .inr (.inr (.inr (.inr (.inr (.inr (.inr (.inr (.inr (.inl ⟨hq, hb, as, ha, h⟩))))))))))
  · rename_i hp
    unfold rspPhase at h
    split at h
    · cases h; exact .inr (.inr (.inr (.inr (.inr (.inr (.inr (.inr (.inr (.inr (.inl ⟨hp, ‹_›, rfl⟩))))))))))
    · exact .inr (.inr (.inr (.inr (.inr (.inr (.inr (.inr (.inr (.inr (.inr ⟨hp, _, ‹_›, h⟩))))))))))

end Sys2Proof.Machine
end

