-- ==== Sys2Proof/Tests/Slice0.lean ====
section
/-! SUPPORT. Tests. Expected values are the spec's: the words of 30_encoding.md and 43_decoder.md, the vectors of
95_test_vectors.md (ids in the comments; those "under G1, G2, G3" are the reference instance's, log 2). A theorem
`witness_<Name>` shows values that meet the hypotheses of Obligations.<Name>, each clause at a boundary of its range. -/

set_option Elab.async false

namespace Sys2Proof.Tests

open Sys2Proof.Machine Sys2Proof.Claims

/-! Small states. -/

/-- After reset, with request words pending. -/
def asking (ws : List (BitVec 20)) : State := { State.reset with reqs := ws }

/-- A bracket of kind c in its state cx, frame k on the TX port from byte 0. -/
def sendingIn (cx : Cx) (c k : Kind) (op : BitVec 4) : State :=
  { State.reset with op := op, cmd := c, cx := cx, tries := 1, kind := k, ph := .tx }

/-- An acknowledgment run in the state cx of a bracket of kind c. -/
def ackRun (cx : Cx) (c k : Kind) (op : BitVec 4) : State :=
  { State.reset with op := op, cmd := c, cx := cx, tries := 1, kind := k, txi := 7, fsmode := .ack, ph := .scan }

/-- READ_MEASUREMENT's run, with the transport's coming answers. -/
def measRun (as : List RxAns) : State := { State.reset with fsmode := .meas, ph := .scan, rxAns := as }

/-- A payload in PB. -/
def holding (pb : Vector Byte 7) : State := { State.reset with pb := pb }

/-- What a test looks at in a next state. -/
def look {α : Type} (f : State → α) : Result → Option α
  | .next t => some (f t)
  | .fault _ => none
  | .refused _ => none

/-- The fields of READ_MEASUREMENT's response. -/
def measured (s : State) : Option Nat × Option Nat × Option Bool × Option Bool × Option Bool :=
  (s.reading.map BitVec.toNat, s.strength.map BitVec.toNat, s.ckOk, s.short, s.measValid)

/-! WellFormed refuses ill-formed terms (30_encoding.md R95, R107, R108, 41_command_fsm.md R162). -/

theorem test_wf_reservedOp15 : (Instr.reservedOp15 0).wf Config.reference = false := by decide +kernel
theorem test_wf_cmdPeriod : (Instr.cmdPeriod 15).wf Config.reference = false := by decide +kernel
theorem test_wf_cmdRange_value : (Instr.cmdRange 299 1).wf Config.reference = false := by decide +kernel
theorem test_wf_cmdRange_flag : (Instr.cmdRange 500 0).wf Config.reference = false := by decide +kernel
theorem test_wf_cmdStrLo : (Instr.cmdStrLo 81).wf Config.reference = false := by decide +kernel
theorem test_wf_cmdStrHi : (Instr.cmdStrHi 3001).wf Config.reference = false := by decide +kernel
theorem test_wf_ackOther :
    (Instr.ackOther 0x01).wf Config.reference = false ∧ (Instr.ackOther 0xFF).wf Config.reference = false ∧
      (Instr.ackOther 0x0F).wf Config.reference = false := by decide +kernel
theorem test_wf_bracket :
    (Instr.bracket .enter).wf Config.reference = false ∧ (Instr.bracket .exit).wf Config.reference = false := by decide +kernel

/-! Decoding. Request words of R104 and 95_test_vectors.md; op in bits 19:16. -/

theorem test_decode_readMeasurement : decodeTableWord 24 0x00000 = some (.readMeasurement 0) := by decide +kernel
theorem test_decode_getBudget : decodeTableWord 24 0x1BEEF = some (.getBudget 0xBEEF) := by decide +kernel
theorem test_decode_setOutputFormat : decodeTableWord 24 0x20001 = some (.setOutputFormat 1) := by decide +kernel
theorem test_decode_setOutputPeriod : decodeTableWord 24 0x303E8 = some (.setOutputPeriod 1000) := by decide +kernel
theorem test_decode_setDistanceUnit : decodeTableWord 24 0x40000 = some (.setDistanceUnit 0) := by decide +kernel
theorem test_decode_setDetectionPattern : decodeTableWord 24 0x50000 = some (.setDetectionPattern 0) := by decide +kernel
theorem test_decode_setDistanceMode : decodeTableWord 24 0x60007 = some (.setDistanceMode 7) := by decide +kernel
theorem test_decode_setRangeLimit : decodeTableWord 24 0x72EE0 = some (.setRangeLimit 12000) := by decide +kernel
theorem test_decode_setStrengthLow : decodeTableWord 24 0x80050 = some (.setStrengthLow 80) := by decide +kernel
theorem test_decode_setStrengthHigh : decodeTableWord 24 0x90BB8 = some (.setStrengthHigh 3000) := by decide +kernel
theorem test_decode_setBaudRate : decodeTableWord 24 0xA0006 = some (.setBaudRate 6) := by decide +kernel
theorem test_decode_setTriggerSource : decodeTableWord 24 0xB0000 = some (.setTriggerSource 0) := by decide +kernel
theorem test_decode_triggerMeasurement : decodeTableWord 24 0xC0000 = some (.triggerMeasurement 0) := by decide +kernel
theorem test_decode_resetDevice : decodeTableWord 24 0xD0000 = some (.resetDevice 0) := by decide +kernel
theorem test_decode_setBudget : decodeTableWord 24 0xE00C8 = some (.setBudget 200) := by decide +kernel
theorem test_decode_reservedOp15 : decodeTableWord 24 0xF0000 = some (.reservedOp15 0) := by decide +kernel
theorem test_decode_21_bits : decodeTableWord 24 0x100000 = none := by decide +kernel

/-! Command frames of section 2.4, T1 to T17; byte 0 in bits 7:0 (R112). -/

theorem test_decode_cmdEnter : decodeTableWord 64 0x0201000000025742 = some .cmdEnter := by decide +kernel
theorem test_decode_cmdExit : decodeTableWord 64 0x0200000000025742 = some .cmdExit := by decide +kernel
theorem test_decode_cmdFormat : decodeTableWord 64 0x0601000000025742 = some (.cmdFormat 1) := by decide +kernel
theorem test_decode_cmdPeriod : decodeTableWord 64 0x070003E800025742 = some (.cmdPeriod 1000) := by decide +kernel
theorem test_decode_cmdUnit : decodeTableWord 64 0x1A00000000025742 = some (.cmdUnit 0) := by decide +kernel
theorem test_decode_cmdPattern : decodeTableWord 64 0x1401000000025742 = some (.cmdPattern 1) := by decide +kernel
theorem test_decode_cmdMode : decodeTableWord 64 0x1107000000025742 = some (.cmdMode 7) := by decide +kernel
theorem test_decode_cmdRange : decodeTableWord 64 0x190101F400025742 = some (.cmdRange 500 1) := by decide +kernel
theorem test_decode_cmdRange_off : decodeTableWord 64 0x1900000000025742 = some (.cmdRange 0 0) := by decide +kernel
theorem test_decode_cmdStrLo : decodeTableWord 64 0x2000005000025742 = some (.cmdStrLo 80) := by decide +kernel
theorem test_decode_cmdStrHi : decodeTableWord 64 0x21000BB800025742 = some (.cmdStrHi 3000) := by decide +kernel
theorem test_decode_cmdBaud : decodeTableWord 64 0x0806000000025742 = some (.cmdBaud 6) := by decide +kernel
theorem test_decode_cmdTrigSrc : decodeTableWord 64 0x4000000000025742 = some (.cmdTrigSrc 0) := by decide +kernel
theorem test_decode_cmdTrigger : decodeTableWord 64 0x4100000000025742 = some .cmdTrigger := by decide +kernel
theorem test_decode_cmdReset : decodeTableWord 64 0xFFFFFFFF00025742 = some .cmdReset := by decide +kernel
/-- A period that no setter packs, and a header alone, which is no template of the instance (R101). -/
theorem test_decode_cmd_never_sent :
    decodeTableWord 64 0x0700000F00025742 = none ∧ decodeTableWord 64 0x025742 = none := by decide +kernel

/-! Acknowledgments A1 to A5 and the measurement frame of S6. -/

theorem test_decode_ackSuccess : decodeTableWord 32 0x01025742 = some .ackSuccess := by decide +kernel
theorem test_decode_ackErrorInstruction : decodeTableWord 32 0xFF025742 = some .ackErrorInstruction := by decide +kernel
theorem test_decode_ackErrorParameter : decodeTableWord 32 0x0F025742 = some .ackErrorParameter := by decide +kernel
theorem test_decode_ackOther : decodeTableWord 32 0x02025742 = some (.ackOther 2) := by decide +kernel
/-- 30_encoding.md R103, R104: op 2, arg 0x5742 as a 20-bit word; only in 24 bits is that number ACK_OTHER's prefix (log 19). -/
theorem test_decode_req_like_ack_prefix : decodeTableWord 20 0x25742 = some (.setOutputFormat 0x5742) := by decide +kernel
/-- The table gives ACK_OTHER's status byte and MEAS_FRAME's payload no bits. -/
theorem test_decode_short_rows :
    decodeTableWord 24 0x025742 = some (.ackOther 0) ∧ decodeTableWord 16 0x5959 = some (.measFrame 0 0 0 0 0 0 0) := by
  decide +kernel
theorem test_decode_measFrame :
    decodeTableWord 72 0xF00007000A012C5959 = some (.measFrame 0x2C 0x01 0x0A 0x00 0x07 0x00 0xF0) := by decide +kernel
theorem test_decode_received_wrong_prefix :
    decodeTableWord 32 0x01025743 = none ∧ decodeTableWord 72 0xF00007000A012C5958 = none := by decide +kernel

/-! Requests, one step from reset. Section 2.4 boundaries; section 2.6 B1 to B4. -/

theorem test_readMeasurement :
    look (fun t => (t.ph, t.cx, t.fsmode, t.txAns)) (step (asking [0x00000])) = some (.scan, .idle, .meas, []) := by decide +kernel
theorem test_getBudget_B1 :
    look (fun t => (t.rspStatus, t.rspData, t.ph)) (step (asking [0x1BEEF])) = some (some .success, some 50, .rsp) := by
  decide +kernel
theorem test_setBudget_B2 : look (fun t => (t.msa, t.rspStatus)) (step (asking [0xE00C8])) = some (200, some .success) := by
  decide +kernel
theorem test_setBudget_B3 : look State.msa (step (asking [0xE0000])) = some 1 := by decide +kernel
theorem test_setOutputFormat :
    look (fun t => (t.template .format, t.cmd)) (step (asking [0x20001])) =
      some (#v[0x42, 0x57, 0x02, 0x00, 0x00, 0x00, 0x01, 0x06], .format) := by decide +kernel
theorem test_setOutputPeriod :
    look (fun t => (t.template .period, t.cmd)) (step (asking [0x303E8])) =
      some (#v[0x42, 0x57, 0x02, 0x00, 0xE8, 0x03, 0x00, 0x07], .period) := by decide +kernel
theorem test_setOutputPeriod_S3 :
    look (fun t => (t.rspStatus, t.ph, t.cx, decide (t.ct = State.reset.ct))) (step (asking [0x3000F])) =
      some (some .errorParameter, .rsp, .idle, true) := by decide +kernel
theorem test_setDistanceUnit :
    look (fun t => (t.template .unit, t.cmd)) (step (asking [0x41234])) =
      some (#v[0x42, 0x57, 0x02, 0x00, 0x00, 0x00, 0x34, 0x1A], .unit) := by decide +kernel
theorem test_setDetectionPattern :
    look (fun t => (t.template .pattern, t.cmd)) (step (asking [0x50000])) =
      some (#v[0x42, 0x57, 0x02, 0x00, 0x00, 0x00, 0x00, 0x14], .pattern) := by decide +kernel
theorem test_setDistanceMode_T5 :
    look (fun t => (t.template .pattern, decide (t.template .mode = State.reset.template .mode), t.cmd, t.stage))
        (step (asking [0x60007])) =
      some (#v[0x42, 0x57, 0x02, 0x00, 0x00, 0x00, 0x01, 0x14], true, .pattern, .pattern) := by decide +kernel
theorem test_setRangeLimit_T9 :
    look (fun t => (t.template .range, t.cmd)) (step (asking [0x72EE0])) =
      some (#v[0x42, 0x57, 0x02, 0x00, 0xE0, 0x2E, 0x01, 0x19], .range) := by decide +kernel
theorem test_setRangeLimit_S2 :
    look (fun t => (t.rspStatus, t.ph, decide (t.ct = State.reset.ct))) (step (asking [0x700C8])) =
      some (some .errorParameter, .rsp, true) := by decide +kernel
theorem test_setStrengthLow_T10 :
    look (fun t => (t.template .strLo, t.cmd)) (step (asking [0x80050])) =
      some (#v[0x42, 0x57, 0x02, 0x00, 0x50, 0x00, 0x00, 0x20], .strLo) := by decide +kernel
theorem test_setStrengthLow_81 : look State.rspStatus (step (asking [0x80051])) = some (some .errorParameter) := by decide +kernel
theorem test_setStrengthHigh_T11 :
    look (fun t => (t.template .strHi, t.cmd)) (step (asking [0x90BB8])) =
      some (#v[0x42, 0x57, 0x02, 0x00, 0xB8, 0x0B, 0x00, 0x21], .strHi) := by decide +kernel
theorem test_setStrengthHigh_3001 : look State.rspStatus (step (asking [0x90BB9])) = some (some .errorParameter) := by
  decide +kernel
theorem test_setBaudRate_T12 :
    look (fun t => (t.template .baud, t.cmd)) (step (asking [0xA0006])) =
      some (#v[0x42, 0x57, 0x02, 0x00, 0x00, 0x00, 0x06, 0x08], .baud) := by decide +kernel
theorem test_setTriggerSource_T13 :
    look (fun t => (t.template .trigSrc, t.cmd)) (step (asking [0xB0000])) =
      some (#v[0x42, 0x57, 0x02, 0x00, 0x00, 0x00, 0x00, 0x40], .trigSrc) := by decide +kernel
theorem test_triggerMeasurement :
    look (fun t => (t.cx, t.kind, t.cmd, decide (t.ct = State.reset.ct))) (step (asking [0xC0000])) =
      some (.enterPending, .enter, .trigger, true) := by decide +kernel
theorem test_resetDevice :
    look (fun t => (t.cx, t.kind, t.cmd, decide (t.ct = State.reset.ct))) (step (asking [0xD0000])) =
      some (.enterPending, .enter, .reset, true) := by decide +kernel
theorem test_reservedOp15 : ∀ t, step (asking [0xF1234]) ≠ .next t := by intro t h; cases h

/-! Command frames: the frame that withFetchWord places is sent by the next step (R165, R166). -/

/-- The bytes sent and what follows. -/
def sent (s : State) : List Byte × Phase × Cx := (txStream s, s.ph, s.cx)

theorem test_cmdEnter_T16 :
    look sent (exec .cmdEnter (sendingIn .enterPending .unit .enter 4)) =
      some ([0x42, 0x57, 0x02, 0x00, 0x00, 0x00, 0x01, 0x02], .scan, .enterPending) := by decide +kernel
theorem test_cmdExit_T17 :
    look sent (exec .cmdExit (sendingIn .exitPending .unit .exit 4)) =
      some ([0x42, 0x57, 0x02, 0x00, 0x00, 0x00, 0x00, 0x02], .scan, .exitPending) := by decide +kernel
theorem test_cmdUnit :
    look sent (exec (.cmdUnit 0) (sendingIn .commandSent .unit .unit 4)) =
      some ([0x42, 0x57, 0x02, 0x00, 0x00, 0x00, 0x00, 0x1A], .scan, .commandSent) := by decide +kernel
/-- The row of every other kind, placed from its word (T1, T2, T4, T6, T7, T10 to T15): step sends exactly that frame. -/
def placed (w : Nat) : Option (List Byte × Phase × Cx) := look sent (step (State.reset.withFetchWord 64 w))

theorem test_cmdFormat :
    placed 0x0601000000025742 = some ([0x42, 0x57, 0x02, 0x00, 0x00, 0x00, 0x01, 0x06], .scan, .commandSent) := by decide +kernel
theorem test_cmdPeriod :
    placed 0x070003E800025742 = some ([0x42, 0x57, 0x02, 0x00, 0xE8, 0x03, 0x00, 0x07], .scan, .commandSent) := by decide +kernel
theorem test_cmdPattern :
    placed 0x1400000000025742 = some ([0x42, 0x57, 0x02, 0x00, 0x00, 0x00, 0x00, 0x14], .scan, .commandSent) := by decide +kernel
theorem test_cmdMode :
    placed 0x1107000000025742 = some ([0x42, 0x57, 0x02, 0x00, 0x00, 0x00, 0x07, 0x11], .scan, .commandSent) := by decide +kernel
theorem test_cmdRange :
    placed 0x190101F400025742 = some ([0x42, 0x57, 0x02, 0x00, 0xF4, 0x01, 0x01, 0x19], .scan, .commandSent) := by decide +kernel
theorem test_cmdStrLo :
    placed 0x2000005000025742 = some ([0x42, 0x57, 0x02, 0x00, 0x50, 0x00, 0x00, 0x20], .scan, .commandSent) := by decide +kernel
theorem test_cmdStrHi :
    placed 0x21000BB800025742 = some ([0x42, 0x57, 0x02, 0x00, 0xB8, 0x0B, 0x00, 0x21], .scan, .commandSent) := by decide +kernel
theorem test_cmdBaud :
    placed 0x0806000000025742 = some ([0x42, 0x57, 0x02, 0x00, 0x00, 0x00, 0x06, 0x08], .scan, .commandSent) := by decide +kernel
theorem test_cmdTrigSrc :
    placed 0x4000000000025742 = some ([0x42, 0x57, 0x02, 0x00, 0x00, 0x00, 0x00, 0x40], .scan, .commandSent) := by decide +kernel
theorem test_cmdTrigger :
    placed 0x4100000000025742 = some ([0x42, 0x57, 0x02, 0x00, 0x00, 0x00, 0x00, 0x41], .scan, .commandSent) := by decide +kernel
theorem test_cmdReset :
    placed 0xFFFFFFFF00025742 = some ([0x42, 0x57, 0x02, 0x00, 0xFF, 0xFF, 0xFF, 0xFF], .scan, .commandSent) := by decide +kernel

/-! A word placed after reset runs as the very next step (log 20): a request, an acknowledgment, a measurement frame. -/

theorem test_placed_request : look State.rspData (step (State.reset.withFetchWord 24 0x1BEEF)) = some (some 50) := by
  decide +kernel
theorem test_placed_ack :
    look (fun t => (t.cx, t.rxBuf, t.rxAns)) (step (State.reset.withFetchWord 32 0x01025742)) =
      some (.commandSent, [], []) := by decide +kernel
theorem test_placed_measFrame :
    look measured (step (State.reset.withFetchWord 16 0x5959)) =
      some (some 0, some 0, some false, some true, some false) := by decide +kernel

/-! Acknowledgments and the measurement frame in a run. -/

theorem test_ackSuccess :
    look (fun t => (t.cx, t.kind, t.ph)) (exec .ackSuccess (ackRun .enterPending .range .enter 7)) =
      some (.commandSent, .range, .tx) := by decide +kernel
/-- A rejected enter is a failed attempt (X3). -/
theorem test_ackErrorInstruction :
    look (fun t => (t.cx, t.tries, t.kind)) (exec .ackErrorInstruction (ackRun .enterPending .format .enter 2)) =
      some (.enterPending, 2, .enter) := by decide +kernel
/-- X6: no exit for kind 12. -/
theorem test_ackErrorParameter :
    look (fun t => (t.cx, t.rspStatus)) (exec .ackErrorParameter (ackRun .commandSent .trigger .trigger 12)) =
      some (.done, some .errorParameter) := by decide +kernel
/-- A5. -/
theorem test_ackOther :
    look (fun t => (t.cx, t.stat)) (exec (.ackOther 2) (ackRun .commandSent .unit .unit 4)) =
      some (.exitPending, .errorTransmission) := by decide +kernel
/-- S6. -/
theorem test_measFrame :
    look measured (exec (.measFrame 0x2C 0x01 0x0A 0x00 0x07 0x00 0xF0) (measRun [])) =
      some (some 300, some 10, some true, some false, some true) := by decide +kernel
/-- S7. -/
theorem test_measFrame_sentinel :
    look measured (exec (.measFrame 0xFF 0xFF 0x0A 0x00 0x07 0x00 0xC1) (measRun [])) =
      some (some 65535, some 10, some true, some false, some false) := by decide +kernel

/-! Procedures. -/

/-- F3, with its ATT; F10, the prefix completed by the last budgeted read; F8, restart on mismatch. -/
theorem test_sync_F3 :
    look (fun t => (t.ret, t.att, t.pb, t.rxAns))
        (exec (.sync .meas) { State.reset with rxAns := answers [0x00, 0x59, 0x01, 0x59, 0x59, 0x2C, 0x01, 0x0A, 0x00, 0x07, 0x00, 0xF0] }) =
      some (.sync .found, 5, #v[0x2C, 0x01, 0x0A, 0x00, 0x07, 0x00, 0xF0], []) := by decide +kernel
theorem test_sync_F10_F11 :
    look (fun t => (t.ret, t.att, t.rxAns)) (exec (.sync .ack)
        { State.reset with msa := 10, rxAns := answers (List.replicate 7 0 ++ [0x42, 0x57, 0x02, 0x01, 0xAA]) }) =
      some (.sync .found, 10, answers [0xAA]) ∧
    look (fun t => (t.ret, t.att, t.mc, t.rxAns)) (exec (.sync .ack)
        { State.reset with msa := 10, rxAns := answers (List.replicate 8 0 ++ [0x42, 0x57, 0x02, 0x01]) }) =
      some (.sync (.notFound .budgetExhausted), 10, 2, answers [0x02, 0x01]) := by decide +kernel
/-- A4: the good acknowledgment behind an unknown status stays unread; A7. -/
theorem test_syncAck_A4 :
    look (fun t => (t.ret, t.rxAns)) (exec .syncAck
        { State.reset with rxAns := answers [0x42, 0x57, 0x02, 0x00, 0x42, 0x57, 0x02, 0x01] }) =
      some (.status .errorTransmission, answers (ackBytes 1)) := by decide +kernel
theorem test_syncAck_A7 :
    look State.ret (exec .syncAck { State.reset with rxAns := answers [0x42, 0x57] ++ [.fail] }) =
      some (.status .errorTransmission) := by decide +kernel
/-- X10: the cut command frame is not scanned for, the exit frame is sent. -/
theorem test_bracket_X10 :
    look (fun t => (t.ret, t.cx, t.tries, (txStream t).length, (rxStream t).length))
        (exec (.bracket .period) { State.reset with
          txAns := taken 10 ++ [.fail] ++ taken 8, rxAns := answers (ackBytes 1 ++ ackBytes 1) }) =
      some (.status .errorTransmission, .done, 1, 18, 8) := by decide +kernel
/-- X11: an enter frame of which nothing is sent. -/
theorem test_bracket_X11 :
    look (fun t => (t.ret, t.cx, t.tries, (txStream t).length, (rxStream t).length))
        (exec (.bracket .period) { State.reset with
          txAns := [.fail] ++ taken 24, rxAns := answers (ackBytes 1 ++ ackBytes 1 ++ ackBytes 1) }) =
      some (.status .success, .done, 2, 24, 12) := by decide +kernel
/-- R241: an unknown mode byte; a flipped payload byte. -/
theorem test_decodePayload :
    look measured (exec .decodePayload (holding #v[0x2C, 0x01, 0x0A, 0x00, 0x05, 0x00, 0xEE])) =
      some (some 300, some 10, some true, none, some false) := by decide +kernel
theorem test_decodePayload_short :
    look measured (exec .decodePayload (holding #v[0x2C, 0x01, 0x0A, 0x00, 0x02, 0x00, 0xEB])) =
      some (some 300, some 10, some true, some true, some true) := by decide +kernel
theorem test_checksum_wraps :
    look State.ckOk (exec .checksum (holding #v[0xFF, 0xFF, 0xFF, 0xFF, 0x07, 0x00, 0xB5])) = some (some true) := by decide +kernel
theorem test_checksum_S8 :
    look State.ckOk (exec .checksum (holding #v[0x2D, 0x01, 0x0A, 0x00, 0x07, 0x00, 0xF0])) = some (some false) := by decide +kernel
/-- M3, M4. -/
theorem test_extract :
    look (fun t => (t.reading.map BitVec.toNat, t.strength.map BitVec.toNat))
        (exec .extract (holding #v[0xFF, 0x00, 0x00, 0xFF, 0x07, 0x00, 0xB7])) = some (some 255, some 65280) := by decide +kernel

/-! Witnesses: values that meet the hypotheses of a statement. -/

/-- The clauses of SeqInv, as one Boolean. -/
def seqCheck (s : State) : Bool :=
  (Kind.all.all fun k => byteIndexes.all fun i => k.writes.contains i || s.ctByte k i == (s.cfg.ctInit k)[i]) &&
  decide (s.cfg.Wf ∧ s.devId = s.cfg.devId ∧ 1 ≤ s.msa ∧ s.msa < 2 ^ s.cfg.msaW) &&
  decide (s.rspValid = true ↔ s.ph = .rsp) &&
  decide (reachablePair s.cx s.ph = true ∧ (s.ph = .tx → frameKind s.cx s.cmd = some s.kind)) &&
  decide ((s.cx = .enterPending → 1 ≤ s.tries.val) ∧ (s.cx = .failed → s.tries.val = 3)) &&
  decide (s.ph = .scan ∨ s.ph = .pay → (s.cx ≠ .idle → s.fsmode = .ack) ∧ (s.cx = .idle → s.fsmode = .meas ∧ s.op = 0#4)) &&
  decide ((s.cx ≠ .idle → kindOfOp s.op s.stage = some s.cmd) ∧ (s.cx = .exitPending → s.cmd.noExit = false)) &&
  decide (s.cx = .exitPending → s.ph = .scan ∨ s.ph = .pay → s.cfg.exitAckScan = true) &&
  decide (s.ph = .scan → s.mc.val < prefixLen s.fsmode ∧ s.att < s.msa ∧ s.mc.val ≤ s.att) &&
  decide (s.ph = .pay →
    s.mc.val = prefixLen s.fsmode ∧ s.pc.val < payloadLen s.fsmode ∧ prefixLen s.fsmode ≤ s.att ∧ s.att ≤ s.msa)

theorem seqInv_of_check {s : State} (h : seqCheck s = true) : SeqInv s := by
  simp only [seqCheck, Bool.and_eq_true, decide_eq_true_eq] at h
  obtain ⟨⟨⟨⟨⟨⟨⟨⟨⟨ht, h1, h2, h3, h4⟩, h5⟩, h6, h7⟩, h8, h9⟩, h10⟩, h11, h12⟩, h13⟩, h14⟩, h15⟩ := h
  refine ⟨h1, h2, h3, h4, fun k i hi => ?_, h5, h6, h7, h8, h9, h10, h11, h12, h13, h14, h15⟩
  have hm : ∀ j : Fin 8, j ∈ byteIndexes := by decide
  have := List.all_eq_true.mp (List.all_eq_true.mp ht k (Kind.mem_all k)) i (hm i)
  simpa [hi] using this

/-- A next state, as an existential. -/
theorem next_of_look {α : Type} {f : State → α} {o : Result} {a : α} (h : look f o = some a) :
    ∃ t, o = .next t ∧ f t = a := by
  cases o with
  | next t => exact ⟨t, rfl, by simpa [look] using h⟩
  | fault _ => cases h
  | refused _ => cases h

/-- A run that has matched 2 of the 3 bytes of ACK_MAGIC with its last budgeted read to come. -/
def lastRead : State := { ackRun .enterPending .range .enter 7 with mc := 2, att := 49 }

/-- PH_PAY of the exit frame's acknowledgment. -/
def exitPay : State :=
  { ackRun .exitPending .pattern .exit 6 with mc := 3, att := 50, ph := .pay, rxAns := answers [0x01] }

/-- The response of a failed bracket, waiting. -/
def failedRsp : State :=
  { State.reset with op := 4, cmd := .unit, cx := .failed, tries := 3, ph := .rsp, rspValid := true,
                     rspStatus := some .errorTransmission, takes := 1 }

/-- An instance without EXIT_ACK_SCAN, the exit frame's last byte on the port. -/
def noScan : State :=
  { sendingIn .exitPending .unit .exit 4 with cfg := { Config.reference with exitAckScan := false }, txi := 7 }

theorem witness_StepRunsThePendingRequest :
    NoReset (asking [0x1BEEF]) ∧ (asking [0x1BEEF]).ph = .idle ∧ (asking [0x1BEEF]).reqs = 0x1BEEF :: [] := by
  unfold NoReset; decide +kernel

theorem witness_StepRunsTheFrameOnTheTxPort :
    ∃ s i, NoReset s ∧ s.ph = .tx ∧ s.txBuf = true ∧ cmdFrame s.cfg i = some (s.kind, s.template s.kind) :=
  ⟨{ sendingIn .commandSent .unit .unit 4 with txBuf := true }, .cmdUnit 0, by unfold NoReset; decide +kernel⟩

theorem witness_StepRunsTheReceivedFrame :
    (∃ s i bs, NoReset s ∧ s.ph = .scan ∧ i.wf s.cfg = true ∧ receivedBytes i = some bs ∧ s.rxBuf = bs) ∧
    (∃ s i bs, NoReset s ∧ s.ph = .pay ∧ i.wf s.cfg = true ∧ receivedBytes i = some bs ∧ s.rxBuf = bs) :=
  ⟨⟨{ measRun [] with rxBuf := [0x59, 0x59, 1, 2, 3, 4, 5, 6, 7] }, .measFrame 1 2 3 4 5 6 7, _,
      by unfold NoReset; decide +kernel, rfl, rfl, rfl, rfl⟩,
    ⟨{ exitPay with rxBuf := ackBytes 2 }, .ackOther 2, _, by unfold NoReset; decide +kernel, rfl, rfl, rfl, rfl⟩⟩

theorem witness_StepTakesOneByteEvent :
    (∃ s as, NoReset s ∧ s.ph = .tx ∧ s.txBuf = false ∧ s.txAns = .done :: as) ∧
    (∃ s as, NoReset s ∧ s.ph = .tx ∧ s.txBuf = false ∧ s.txAns = .fail :: as) ∧
    (∃ s b as, NoReset s ∧ s.ph = .scan ∧ s.rxBuf = [] ∧ s.rxAns = .byte b :: as) ∧
    (∃ s b as, NoReset s ∧ s.ph = .pay ∧ s.rxBuf = [] ∧ s.rxAns = .byte b :: as) ∧
    (∃ s as, NoReset s ∧ s.ph = .scan ∧ s.rxBuf = [] ∧ s.rxAns = .fail :: as) ∧
    (∃ s n, NoReset s ∧ s.ph = .rsp ∧ s.takes = n + 1) :=
  ⟨⟨{ sendingIn .commandSent .unit .unit 4 with txAns := [.done] }, [], by unfold NoReset; decide +kernel⟩,
    ⟨{ sendingIn .commandSent .unit .unit 4 with txAns := [.fail] }, [], by unfold NoReset; decide +kernel⟩,
    ⟨measRun (answers [0x59]), 0x59, [], by unfold NoReset; decide +kernel⟩,
    ⟨exitPay, 0x01, [], by unfold NoReset; decide +kernel⟩,
    ⟨measRun [.fail], [], by unfold NoReset; decide +kernel⟩,
    ⟨failedRsp, 0, by unfold NoReset; decide +kernel⟩⟩

theorem witness_StepWaitsForTheEnvironment :
    (NoReset State.reset ∧ State.reset.ph = .idle ∧ State.reset.reqs = []) ∧
    (∃ s, NoReset s ∧ s.ph = .tx ∧ s.txBuf = false ∧ s.txAns = []) ∧
    (∃ s, NoReset s ∧ s.ph = .scan ∧ s.rxBuf = [] ∧ s.rxAns = []) ∧
    (∃ s, NoReset s ∧ s.ph = .pay ∧ s.rxBuf = [] ∧ s.rxAns = []) ∧
    (∃ s, NoReset s ∧ s.ph = .rsp ∧ s.takes = 0) :=
  ⟨by unfold NoReset; decide +kernel,
    ⟨sendingIn .commandSent .unit .unit 4, by unfold NoReset; decide +kernel⟩,
    ⟨measRun [], by unfold NoReset; decide +kernel⟩,
    ⟨{ exitPay with rxAns := [] }, by unfold NoReset; decide +kernel⟩,
    ⟨{ failedRsp with takes := 0 }, by unfold NoReset; decide +kernel⟩⟩

/-- Reset in the middle of a frame (R293). -/
theorem witness_ResetIsTakenInEveryState :
    ∃ (s : State) (rest : List Bool), s.rst = true :: rest ∧ s.ph = .tx ∧ s.txi = 7 :=
  ⟨{ sendingIn .commandSent .unit .unit 4 with rst := [true], txi := 7 }, [], by decide +kernel⟩

theorem witness_DecodeOfEncode :
    formatOf (.cmdStrHi 3000) = some .cmd8 ∧ (Instr.cmdStrHi 3000).wf Config.reference = true ∧
    Config.reference.templatesSeparate = true ∧
    formatOf (.reservedOp15 0xFFFF) = some .req20 ∧
    formatOf (.ackOther 0xFE) = some .ack4 ∧ (Instr.ackOther 0xFE).wf Config.reference = true ∧
    formatOf (.measFrame 0 0 0 0 0 0 0xFF) = some .meas9 := by decide +kernel

theorem witness_EncodeOfDecode :
    decode Config.reference .req20 [0xFF, 0xFF, 0x0E] = .ok (.setBudget 0xFFFF) ∧
    decode Config.reference .cmd8 [0x42, 0x57, 0x02, 0x00, 0xB8, 0x0B, 0x00, 0x21] = .ok (.cmdStrHi 3000) ∧
    decode Config.reference .ack4 (ackBytes 0) = .ok (.ackOther 0) ∧
    decode Config.reference .meas9 [0x59, 0x59, 0, 0, 0, 0, 0, 0, 0xFF] = .ok (.measFrame 0 0 0 0 0 0 0xFF) :=
  ⟨rfl, rfl, rfl, rfl⟩

/-- PH_IDLE, for every statement about an accepted request. -/
theorem witness_ReadMeasurementStartsARun : State.reset.ph = .idle := rfl
theorem witness_GetBudgetAnswersTheBudget :
    State.reset.ph = .idle ∧ 1 = { State.reset with msa := 1 }.msa ∧ { State.reset with msa := 65535 }.msa + 1 = 2 ^ 16 := by
  decide +kernel

/-- 0 stores 1; the narrowed value 1 of 0x8001 where MSA_W = 15. -/
theorem witness_SetBudgetStoresTheBudget :
    State.reset.ph = .idle ∧ (0xFFFF#16).toNat % 2 ^ State.reset.cfg.msaW ≠ 0 ∧
    (0x8001#16).toNat % 2 ^ 15 = 1 := by decide +kernel

theorem witness_EnumeratedSettersWriteByteSix : State.reset.ph = .idle := rfl

/-- 0 and 65530; 0 and 80; 0 and 3000: the ends of the ranges (R207). -/
theorem witness_NumericSettersPackLittleEndian :
    State.reset.ph = .idle ∧ (0#16).toNat % 10 = 0 ∧ (65530#16).toNat % 10 = 0 ∧ (80#16).toNat ≤ 80 ∧
    (3000#16).toNat ≤ 3000 := by decide +kernel

theorem witness_SetRangeLimitWritesThreeBytes :
    ([0#16, 300#16, 12000#16].all fun arg => decide (arg.toNat = 0 ∨ (300 ≤ arg.toNat ∧ arg.toNat ≤ 12000))) = true := by
  decide +kernel

theorem witness_SetDistanceModeForcesThePattern : State.reset.ph = .idle := rfl
theorem witness_FixedCommandsWriteNothing : State.reset.ph = .idle := rfl

theorem witness_InvalidArgumentsAreRejectedLocally :
    ([1#16, 65535#16].all fun arg => decide (arg.toNat % 10 ≠ 0)) = true ∧
    ([1#16, 299#16, 12001#16, 65535#16].all fun arg =>
      decide (arg.toNat ≠ 0 ∧ (arg.toNat < 300 ∨ 12000 < arg.toNat))) = true ∧
    80 < (81#16).toNat ∧ 3000 < (3001#16).toNat := by decide +kernel

theorem witness_RequestsWaitWhileTheEngineIsBusy :
    failedRsp.ph ≠ .idle ∧ reqOp (.setBudget 5) = some (14#4, 5#16) ∧ (14#4 : BitVec 4) ≠ 15#4 ∧
    (∃ t, step { failedRsp with reqs := [0xE0005] } = .next t ∧ t.reqs = [0xE0005]) :=
  ⟨by decide +kernel, rfl, by decide, next_of_look (by decide +kernel)⟩

theorem witness_ReservedOperationIsRefused :
    NoReset (asking [word 15 0xFFFF]) ∧ (asking [word 15 0xFFFF]).ph = .idle ∧
    (asking [word 15 0xFFFF]).reqs = word 15 0xFFFF :: [] := by
  unfold NoReset; decide +kernel

theorem reset_msa_fits : State.reset.msa < 2 ^ State.reset.cfg.msaW := by decide +kernel

/-- The last acknowledgment the budget admits, in each of the three states of the bracket. -/
theorem witness_AcknowledgmentsEndTheSendStep :
    ∀ cx ∈ [Cx.enterPending, .commandSent, .exitPending], ∃ s : State,
      receivedBytes (.ackOther 0x00) = some (ackBytes 0x00) ∧ s.ph = .scan ∧ s.fsmode = .ack ∧ s.mc = 0 ∧ s.cx = cx ∧
      s.att + 3 = s.msa ∧ s.msa < 2 ^ s.cfg.msaW := by
  intro cx _
  exact ⟨{ ackRun cx .unit .unit 4 with att := 47 }, rfl, rfl, rfl, rfl, rfl, rfl, reset_msa_fits⟩

theorem witness_MeasurementFramesAreDecoded :
    ∃ s : State, s.ph = .scan ∧ s.fsmode = .meas ∧ s.mc = 0 ∧ s.att + 2 = s.msa ∧ s.msa < 2 ^ s.cfg.msaW :=
  ⟨{ measRun [] with att := 48 }, by decide +kernel⟩

theorem witness_FramesAtAClosedPort :
    (receivedBytes .ackSuccess = some (ackBytes 1) ∧ State.reset.ph ≠ .scan ∧ State.reset.ph ≠ .pay) ∧
    (∃ k t, cmdFrame State.reset.cfg .cmdExit = some (k, t) ∧ State.reset.ph ≠ .tx) ∧
    (∃ k t, cmdFrame State.reset.cfg .cmdExit = some (k, t) ∧ (sendingIn .commandSent .unit .unit 4).ph = .tx ∧
      (sendingIn .commandSent .unit .unit 4).kind ≠ k) :=
  ⟨⟨rfl, by decide +kernel, by decide +kernel⟩, ⟨_, _, rfl, by decide +kernel⟩, ⟨_, _, rfl, rfl, by decide⟩⟩

/-- The 14 frames of the reference instance, each on the port. -/
theorem witness_CommandFramesAreSentWhole :
    ∀ k : Kind, ∃ s : State, s.kind = k ∧ s.ph = .tx ∧
      cmdFrame s.cfg (cmdInstr k (s.template k)) = some (s.kind, s.template s.kind) ∧
      ¬ (s.cx = .exitPending ∧ s.cfg.exitAckScan = false) := by
  intro k
  refine ⟨sendingIn (cxOfKind k) .unit k 4, rfl, rfl, ?_, ?_⟩ <;> cases k <;> decide +kernel

theorem witness_ExitFrameWithoutScanEndsTheBracket :
    noScan.ph = .tx ∧ cmdFrame noScan.cfg .cmdExit = some (noScan.kind, noScan.template noScan.kind) ∧
    noScan.cx = .exitPending ∧ noScan.cfg.exitAckScan = false := by decide +kernel

theorem witness_BufferCallsAreByteTransactions :
    (∃ s i k f t, ByteGrain s ∧ cmdFrame s.cfg i = some (k, f) ∧ exec i s = .next t ∧ t.ph = .scan) ∧
    (∃ s i bs t, ByteGrain s ∧ receivedBytes i = some bs ∧ exec i s = .next t ∧ t.ph = .tx) :=
  ⟨(have ⟨t, h, hp⟩ := next_of_look (o := exec .cmdEnter (sendingIn .enterPending .unit .enter 4))
      (f := State.ph) (a := .scan) (by decide +kernel)
    ⟨sendingIn .enterPending .unit .enter 4, .cmdEnter, _, _, t, ⟨rfl, rfl, rfl⟩, rfl, h, hp⟩),
   (have ⟨t, h, hp⟩ := next_of_look (o := exec .ackSuccess (ackRun .enterPending .unit .enter 4))
      (f := State.ph) (a := .tx) (by decide +kernel)
    ⟨ackRun .enterPending .unit .enter 4, .ackSuccess, _, t, ⟨rfl, rfl, rfl⟩, rfl, h, hp⟩)⟩

theorem witness_TxAnswersMoveTheFrame :
    (∃ (s : State) (j : Fin 8), s.ph = .tx ∧ s.txi.val < 7 ∧ j.val = s.txi.val + 1 ∧ j = 7) ∧
    (noScan.ph = .tx ∧ noScan.txi.val = 7 ∧ noScan.cx = .exitPending ∧ noScan.cfg.exitAckScan = false) ∧
    (∃ s : State, s.ph = .tx ∧ s.txi.val = 7 ∧ ¬ (s.cx = .exitPending ∧ s.cfg.exitAckScan = false)) :=
  ⟨⟨{ sendingIn .exitPending .unit .exit 4 with txi := 6 }, 7, by decide +kernel⟩, by decide +kernel,
    ⟨{ sendingIn .exitPending .unit .exit 4 with txi := 7 }, by decide +kernel⟩⟩

theorem witness_StepResultByCx :
    (∃ (s : State) (n : Fin 4), s.cx = .enterPending ∧ s.tries.val < 3 ∧ n.val = s.tries.val + 1 ∧ n = 3) ∧
    (∃ s : State, s.cx = .enterPending ∧ s.tries.val = 3) ∧
    (∃ s : State, s.cx = .commandSent ∧ noExit s.cmd = true) ∧ (∃ s : State, s.cx = .commandSent ∧ noExit s.cmd = false) ∧
    (∃ s : State, s.cx = .exitPending) :=
  ⟨⟨{ ackRun .enterPending .unit .enter 4 with tries := 2 }, 3, by decide +kernel⟩,
    ⟨{ ackRun .enterPending .unit .enter 4 with tries := 3 }, by decide +kernel⟩,
    ⟨ackRun .commandSent .baud .baud 10, by decide +kernel⟩, ⟨ackRun .commandSent .strHi .strHi 9, by decide +kernel⟩,
    ⟨exitPay, rfl⟩⟩

theorem witness_FinishEndsTheBracket :
    (exitPay.op = 6#4 ∧ exitPay.stage = .pattern) ∧ Status.errorParameter ≠ .success ∧
    ¬ (failedRsp.op = 6#4 ∧ failedRsp.stage = .pattern) := by decide +kernel

/-- The last budgeted read completes the prefix; it does not; there is budget left after a break. -/
theorem witness_SearchStepMatchesOrRestarts :
    (∃ (s : State) (b : Byte) (mc : Fin 4), s = lastRead ∧ s.ph = .scan ∧ s.att < s.msa ∧ s.msa < 2 ^ s.cfg.msaW ∧
      s.mc.val < (magic s.fsmode).length ∧
      mc.val = (if (magic s.fsmode)[s.mc.val]? = some b then s.mc.val + 1 else 0) ∧
      mc.val = (magic s.fsmode).length ∧ s.att + 1 = s.msa) ∧
    (∃ (s : State) (b : Byte) (mc : Fin 4), s = lastRead ∧
      mc.val = (if (magic s.fsmode)[s.mc.val]? = some b then s.mc.val + 1 else 0) ∧
      mc.val ≠ (magic s.fsmode).length ∧ s.att + 1 = s.msa) ∧
    (∃ (s : State) (b : Byte) (mc : Fin 4), s = { lastRead with att := 48 } ∧
      mc.val = (if (magic s.fsmode)[s.mc.val]? = some b then s.mc.val + 1 else 0) ∧
      mc.val ≠ (magic s.fsmode).length ∧ s.att + 1 ≠ s.msa) :=
  ⟨⟨lastRead, 0x02, 3, by decide +kernel⟩, ⟨lastRead, 0x42, 0, by decide +kernel⟩,
    ⟨_, 0x42, 0, rfl, by decide +kernel⟩⟩

theorem witness_PayloadStepAndReceiveFailure :
    (∃ (s : State) (p : Fin 8), s.ph = .pay ∧ s.pc.val < 7 ∧ p.val = s.pc.val + 1 ∧ p.val = payload s.fsmode ∧ p = 7) ∧
    (∃ (s : State) (p : Fin 8), s.ph = .pay ∧ s.pc.val < 7 ∧ p.val = s.pc.val + 1 ∧ p.val ≠ payload s.fsmode) ∧
    lastRead.ph = .scan ∧ exitPay.ph = .pay :=
  ⟨⟨{ measRun [] with ph := .pay, pc := 6 }, 7, by decide +kernel⟩, ⟨{ measRun [] with ph := .pay }, 1, by decide +kernel⟩,
    rfl, rfl⟩

theorem witness_EndOfARun : exitPay.fsmode = .ack ∧ (measRun []).fsmode = .meas := by decide +kernel
/-- R33: the code of each Status on the response port. -/
theorem test_hostRead_status :
    [Status.success, .errorInstruction, .errorParameter, .errorTransmission].map
      (fun st => hostRead .rspStatus 0xFFFF { State.reset with rspStatus := some st }) = [0, 1, 2, 3] := by decide +kernel

/-- Every register written, and every register unwritten. -/
theorem witness_UnwrittenResultsHaveNoValue :
    (∃ s : State, s.reading = some 0xFFFF ∧ s.strength = some 0 ∧ s.rspData = some 1 ∧ s.short = some true ∧
      s.ckOk = some false ∧ s.measValid = some true ∧ s.rspStatus = some .errorTransmission) ∧
    ResultsUnwritten State.reset :=
  ⟨⟨{ State.reset with
      reading := some 0xFFFF, strength := some 0, rspData := some 1, short := some true, ckOk := some false,
      measValid := some true, rspStatus := some .errorTransmission },
      rfl, rfl, rfl, rfl, rfl, rfl, rfl⟩,
    ⟨rfl, rfl, rfl, rfl, rfl, rfl, rfl⟩⟩

theorem witness_ResponseTakenReturnsToIdle : failedRsp.ph = .rsp := rfl

theorem witness_DecodeWritesTheMeasurement : ∃ s : State, s.ph = .pay ∧ s.fsmode = .meas ∧ s.pc = 6 :=
  ⟨{ measRun [] with ph := .pay, pc := 6 }, rfl, rfl, rfl⟩

theorem witness_ExtractSelectsFixedSlices :
    ∃ (s : State) (pay : BitVec 56), ∀ j : Fin 7, s.pb[j] = pay.extractLsb' (8 * j.val) 8 :=
  ⟨holding #v[0x2C, 0x01, 0x0A, 0x00, 0x07, 0x00, 0xF0], 0xF00007000A012C, by decide +kernel⟩

theorem witness_EverySingleByteChangeIsDetected :
    ∃ s t, exec .checksum s = .next t ∧ t.ckOk = some true ∧ (0xF1 : Byte) ≠ s.pb[(6 : Fin 7)] :=
  ⟨holding #v[0x2C, 0x01, 0x0A, 0x00, 0x07, 0x00, 0xF0], _, rfl, by decide +kernel, by decide +kernel⟩

/-- F10, F12: the garbage is as long as the budget allows. -/
theorem witness_SyncFindsTheFrameBehindGarbage :
    ∀ m : FsMode, ∃ (s : State) (g p : List Byte) (rest : List RxAns), (∀ b ∈ g, (magic m)[0]? ≠ some b) ∧
      p.length = payload m ∧ g.length + (magic m).length = s.msa ∧ s.msa < 2 ^ s.cfg.msaW ∧
      s.rxAns = answers (g ++ magic m ++ p) ++ rest := by
  intro m
  refine ⟨{ State.reset with
    rxAns := answers (List.replicate (50 - (magic m).length) 0 ++ magic m ++ List.replicate (payload m) 7) ++ [.fail] },
    List.replicate (50 - (magic m).length) 0, List.replicate (payload m) 7, [.fail], ?_, ?_, ?_, ?_, rfl⟩ <;>
  cases m <;> decide +kernel

/-- F11; a failure at the last budgeted read. -/
theorem witness_SyncEndsWithoutAFrame :
    (∃ (s : State) (g p : List Byte) (rest : List RxAns), (∀ b ∈ g, (magic .ack)[0]? ≠ some b) ∧
      s.msa + 1 = g.length + (magic .ack).length ∧ s.msa < 2 ^ s.cfg.msaW ∧
      s.rxAns = answers (g ++ magic .ack ++ p) ++ rest) ∧
    (∃ (s : State) (g : List Byte) (rest : List RxAns), (∀ b ∈ g, (magic .meas)[0]? ≠ some b) ∧
      g.length + 1 = s.msa ∧ s.msa < 2 ^ s.cfg.msaW ∧ s.rxAns = answers g ++ .fail :: rest) :=
  ⟨⟨{ State.reset with msa := 10, rxAns := answers (List.replicate 8 0 ++ magic .ack ++ [1]) }, List.replicate 8 0, [1], [],
      by decide +kernel⟩,
    ⟨{ State.reset with msa := 3, rxAns := answers [0, 0] ++ [.fail] }, [0, 0], [], by decide +kernel⟩⟩

theorem witness_SyncAckMapsTheStatusByte :
    ∀ n ∈ [7, 8], ∃ (s : State) (g : List Byte), g.length = n ∧ s.msa = 10 ∧ (∀ b ∈ g, b ≠ 0x42#8) ∧
      s.msa < 2 ^ s.cfg.msaW ∧ s.rxAns = answers (g ++ ackBytes 0xFF) ++ [] := by
  intro n hn
  refine ⟨{ State.reset with msa := 10, rxAns := answers (List.replicate n 0 ++ ackBytes 0xFF) ++ [] }, List.replicate n 0,
    by simp, rfl, fun b hb => ?_, Nat.lt_of_le_of_lt (show 10 ≤ 50 by decide) reset_msa_fits, rfl⟩
  simp [List.eq_of_mem_replicate hb]

/-- X2 and X6, with the least budget that works. -/
theorem witness_ExecReturnsTheCommandsStatus :
    ∀ c ∈ [Kind.format, Kind.trigger], ∃ s : State, c.isCommand = true ∧ 3 = s.msa ∧ s.msa < 2 ^ s.cfg.msaW ∧
      s.txAns = taken (8 * (bracketFrames c).length) ++ [] ∧
      s.rxAns = answers ((ackBytes 0x01#8 ++ ackBytes 0xFF#8 ++ ackBytes 0x01#8).take (4 * bracketAcks s.cfg c)) ++ [] := by
  intro c hc
  refine ⟨{ State.reset with
    msa := 3, txAns := taken (8 * (bracketFrames c).length) ++ [],
    rxAns := answers ((ackBytes 0x01#8 ++ ackBytes 0xFF#8 ++ ackBytes 0x01#8).take (4 * bracketAcks Config.reference c)) ++ [] },
    ?_, rfl, Nat.lt_of_le_of_lt (show 3 ≤ 50 by decide) reset_msa_fits, rfl, rfl⟩
  revert c; decide

/-- X3. -/
theorem witness_ExecGivesUpAfterThreeEntries :
    ∃ s : State, Kind.format.isCommand = true ∧ (0xFF#8 : Byte) ≠ 0x01#8 ∧ 3 = s.msa ∧ s.msa < 2 ^ s.cfg.msaW ∧
      s.txAns = taken 24 ++ [] ∧ s.rxAns = answers (ackBytes 0xFF ++ ackBytes 0xFF ++ ackBytes 0xFF) ++ [] :=
  ⟨{ State.reset with msa := 3, txAns := taken 24, rxAns := answers (ackBytes 0xFF ++ ackBytes 0xFF ++ ackBytes 0xFF) },
    by decide +kernel⟩

/-- X1, and an `Exec` whose first TX transaction fails. -/
theorem witness_ExecIsTheSmallStepMachine :
    ∃ s t st, ByteGrain s ∧ 1 ≤ s.msa ∧ exec (.bracket .range) s = .next t ∧ t.ret = .status st :=
  have ⟨t, h, hr⟩ := next_of_look (o := exec (.bracket .range)
      { State.reset with txAns := .fail :: taken 24, rxAns := answers (successes 3) })
    (f := State.ret) (a := .status .success) (by decide +kernel)
  ⟨_, t, _, ⟨rfl, rfl, rfl⟩, by decide +kernel, h, hr⟩

theorem witness_SyncIsTheSmallStepMachine :
    ∃ s t r, ByteGrain s ∧ 1 = s.msa ∧ exec (.sync .meas) s = .next t ∧ t.ret = .sync r :=
  have ⟨t, h, hr⟩ := next_of_look (o := exec (.sync .meas) { State.reset with msa := 1, rxAns := answers [0x59, 0x59] })
    (f := State.ret) (a := .sync (.notFound .budgetExhausted)) (by decide +kernel)
  ⟨_, t, _, ⟨rfl, rfl, rfl⟩, rfl, h, hr⟩

theorem witness_StepKeepsTheInvariant :
    (∃ t, SeqInv (measRun (answers [0x59])) ∧ step (measRun (answers [0x59])) = .next t ∧ t.mc = 1) ∧
    (∃ t, SeqInv exitPay ∧ step exitPay = .next t ∧ t.kind = .enter) :=
  ⟨(have ⟨t, h, hm⟩ := next_of_look (o := step (measRun (answers [0x59]))) (f := State.mc) (a := 1) (by decide +kernel)
    ⟨t, seqInv_of_check (by decide +kernel), h, hm⟩),
   (have ⟨t, h, hm⟩ := next_of_look (o := step exitPay) (f := State.kind) (a := .enter) (by decide +kernel)
    ⟨t, seqInv_of_check (by decide +kernel), h, hm⟩)⟩

theorem witness_InvariantsHoldAfterReset : Config.reference.Wf := by decide +kernel

theorem witness_StepKeepsTheResultInvariant :
    ∃ t, SeqInv exitPay ∧ ResultInv exitPay ∧ step exitPay = .next t :=
  have ⟨t, h, _⟩ := next_of_look (o := step exitPay) (f := State.kind) (a := .enter) (by decide +kernel)
  ⟨t, seqInv_of_check (by decide +kernel),
    { busy := fun _ => ⟨rfl, rfl, rfl, rfl, rfl, rfl, rfl⟩, measurement := fun h => (by cases h),
      status := fun h => (by cases h), failed := fun h => (by cases h) }, h⟩

theorem witness_StepKeepsTheReadInvariant :
    ∃ s t, SeqInv s ∧ ReadInv s ∧ step s = .next t ∧ t.ph = .pay :=
  have ⟨t, h, hp⟩ := next_of_look
    (o := step { measRun (answers [0x59]) with mc := 1, att := 1, hist := [.rx 0 (.byte 0x59)] })
    (f := State.ph) (a := .pay) (by decide +kernel)
  ⟨_, t, seqInv_of_check (by decide +kernel), { scan := fun _ => (by decide +kernel), pay := fun h => (by cases h) }, h, hp⟩

/-- A setter's Req step, and the end of stage 0 of SET_DISTANCE_MODE. -/
theorem witness_OnlySettersWriteTheTable :
    (∃ t, SeqInv (asking [0x701F4]) ∧ NoReset (asking [0x701F4]) ∧ step (asking [0x701F4]) = .next t ∧
      t.ctByte .range 6 ≠ (asking [0x701F4]).ctByte .range 6) ∧
    (∃ s t, SeqInv s ∧ NoReset s ∧ step s = .next t ∧ t.ctByte .mode 6 ≠ s.ctByte .mode 6) :=
  ⟨(have ⟨t, h, hb⟩ := next_of_look (o := step (asking [0x701F4])) (f := fun t => t.ctByte .range 6) (a := 0x01)
      (by decide +kernel)
    ⟨t, seqInv_of_check (by decide +kernel), by unfold NoReset; decide +kernel, h, by rw [hb]; decide +kernel⟩),
   (have ⟨t, h, hb⟩ := next_of_look (o := step { exitPay with arg := 7 }) (f := fun t => t.ctByte .mode 6) (a := 0x07)
      (by decide +kernel)
    ⟨_, t, seqInv_of_check (by decide +kernel), by unfold NoReset; decide +kernel, h, by rw [hb]; decide +kernel⟩)⟩

theorem witness_OnlySetBudgetChangesTheBudget :
    ∃ s t, step s = .next t ∧ NoReset s ∧ t.msa ≠ s.msa :=
  have ⟨t, h, hm⟩ := next_of_look (o := step (asking [0xE0000])) (f := State.msa) (a := 1) (by decide +kernel)
  ⟨_, t, h, by unfold NoReset; decide +kernel, by rw [hm]; decide +kernel⟩

theorem edge {s : State} {c : Cx} (h : look State.cx (step s) = some c) (hs : seqCheck s = true)
    (hr : s.rst.head? ≠ some true) (hc : c ≠ s.cx) :
    ∃ t, SeqInv s ∧ NoReset s ∧ step s = .next t ∧ t.cx = c ∧ t.cx ≠ s.cx :=
  have ⟨t, ht, he⟩ := next_of_look h
  ⟨t, seqInv_of_check hs, hr, ht, he, he ▸ hc⟩

/-- Every edge of R181 is taken from a state of the invariant. -/
theorem witness_EdgesOfCx :
    ∀ e ∈ [(asking [0x701F4], Cx.enterPending),
      ({ lastRead with mc := 3, ph := .pay, att := 50, rxAns := answers [0x01] }, .commandSent),
      ({ lastRead with tries := 3, mc := 3, ph := .pay, att := 50, rxAns := answers [0xFF] }, .failed),
      ({ ackRun .commandSent .unit .unit 4 with rxAns := [.fail] }, .exitPending),
      ({ ackRun .commandSent .trigger .trigger 12 with rxAns := [.fail] }, .done),
      ({ exitPay with stage := .mode, cmd := .mode }, .done), (exitPay, .enterPending), (failedRsp, .idle)],
    ∃ t, SeqInv e.1 ∧ NoReset e.1 ∧ step e.1 = .next t ∧ t.cx = e.2 ∧ t.cx ≠ e.1.cx := by
  intro e he
  simp only [List.mem_cons, List.not_mem_nil, or_false] at he
  rcases he with rfl | rfl | rfl | rfl | rfl | rfl | rfl | rfl <;>
    exact edge (by decide +kernel) (by decide +kernel) (by decide +kernel) (by decide +kernel)

theorem witness_SetterFramesDependOnTheArgumentOnly :
    (∃ s s' t t', SeqInv s ∧ SeqInv s' ∧ s.cfg = s'.cfg ∧ s.ph = .idle ∧ s'.ph = .idle ∧ s.ct ≠ s'.ct ∧
      brackets (.setRangeLimit 0) = [.range] ∧ exec (.setRangeLimit 0) s = .next t ∧ exec (.setRangeLimit 0) s' = .next t') ∧
    (∃ s s', SeqInv s ∧ SeqInv s' ∧ s.cfg = s'.cfg ∧ s.arg = s'.arg ∧ s.op = 6#4 ∧ s'.op = 6#4 ∧ s.stage = .pattern ∧
      s'.stage = .pattern) :=
  ⟨⟨State.reset, State.reset.setCtByte .range 4 0xF4, _, _, seqInv_of_check (by decide +kernel),
      seqInv_of_check (by decide +kernel), rfl, rfl, rfl, by decide +kernel, rfl, rfl, rfl⟩,
    ⟨exitPay, exitPay.setCtByte .mode 6 0x55, seqInv_of_check (by decide +kernel), seqInv_of_check (by decide +kernel),
      rfl, rfl, rfl, rfl, rfl, rfl⟩⟩

theorem witness_OnlyTemplatesAreSent :
    ∃ s t, SeqInv s ∧ step s = .next t ∧ t.hist = Obs.tx 0 0x02 .done :: s.hist :=
  have ⟨t, h, hh⟩ := next_of_look (o := step { sendingIn .exitPending .unit .exit 4 with txi := 7, txAns := [.done] })
    (f := State.hist) (a := [.tx 0 0x02 .done]) (by decide +kernel)
  ⟨_, t, seqInv_of_check (by decide +kernel), h, hh⟩

theorem witness_ResultsStayUntilTheNextRequest :
    (∃ t, NoReset failedRsp ∧ step failedRsp = .next t ∧ failedRsp.ph = .rsp ∧ t.rspStatus = some .errorTransmission) ∧
    (∃ s t, NoReset s ∧ step s = .next t ∧ s.ph ≠ .idle ∧ t.ph ≠ .rsp) ∧
    (NoReset State.reset ∧ (∃ t, step State.reset = .next t) ∧ State.reset.ph = .idle ∧ State.reset.reqs = []) :=
  ⟨(have ⟨t, h, hr⟩ := next_of_look (o := step failedRsp) (f := State.rspStatus) (a := some .errorTransmission)
      (by decide +kernel)
    ⟨t, by unfold NoReset; decide +kernel, h, rfl, hr⟩),
   (have ⟨t, h, hp⟩ := next_of_look (o := step exitPay) (f := State.ph) (a := .tx) (by decide +kernel)
    ⟨exitPay, t, by unfold NoReset; decide +kernel, h, by decide +kernel, by rw [hp]; decide⟩),
   ⟨by unfold NoReset; decide +kernel, ⟨_, rfl⟩, rfl, rfl⟩⟩

/-- SET_DISTANCE_MODE 7, all acknowledged (P3): two brackets, six acknowledgments. -/
theorem witness_AcknowledgedCommandsSucceed :
    ∃ s : State, ByteGrain s ∧ s.ph = .idle ∧ 3 = s.msa ∧ s.msa < 2 ^ s.cfg.msaW ∧
      reqOp (.setDistanceMode 7) = some (6#4, 7#16) ∧ brackets (.setDistanceMode 7) ≠ [] ∧
      s.reqs = word (6#4).toNat 7#16 :: [] ∧
      s.txAns = taken (8 * ((brackets (.setDistanceMode 7)).map bracketFrames).flatten.length) ++ [] ∧
      s.rxAns = answers (successes (((brackets (.setDistanceMode 7)).map (bracketAcks s.cfg)).sum)) ++ [] :=
  ⟨{ State.reset with msa := 3, reqs := [0x60007], txAns := taken 48, rxAns := answers (successes 6) },
    ⟨rfl, rfl, rfl⟩, by decide +kernel⟩

/-- The enumerated, numeric and fixed forms have brackets, at the ends of their ranges. -/
theorem test_brackets :
    ∀ i ∈ [Instr.setOutputPeriod 65530, .setRangeLimit 0, .setRangeLimit 300, .setRangeLimit 12000, .setStrengthLow 80,
      .setStrengthHigh 3000, .setOutputFormat 0xFFFF, .resetDevice 0], brackets i ≠ [] := by decide

/-- P4's second request, with MSA = 1. -/
theorem witness_UnacknowledgedCommandsFail :
    ∃ (s : State) (g : List Byte), ByteGrain s ∧ s.ph = .idle ∧ 1 = s.msa ∧ s.msa < 2 ^ s.cfg.msaW ∧
      reqOp (.setOutputPeriod 1000) = some (3#4, 1000#16) ∧ brackets (.setOutputPeriod 1000) ≠ [] ∧
      s.reqs = word (3#4).toNat 1000#16 :: [] ∧ s.txAns = taken 24 ++ [] ∧ g.length = 3 * s.msa ∧
      (∀ b ∈ g, b ≠ 0x42#8) ∧ s.rxAns = answers g ++ [] :=
  ⟨{ State.reset with msa := 1, reqs := [0x303E8], txAns := taken 24, rxAns := answers [0x57, 0x02, 0x01] },
    [0x57, 0x02, 0x01], ⟨rfl, rfl, rfl⟩, by decide +kernel⟩

theorem witness_EveryOperationReachesItsResponse :
    ∃ s : State, SeqInv s ∧ ByteGrain s ∧ s.ph ≠ .idle ∧ 80 = s.txAns.length ∧ 10 * (s.msa + 1) = s.rxAns.length :=
  ⟨{ sendingIn .enterPending .unit .enter 4 with
      msa := 1, txAns := taken 80, rxAns := answers (List.replicate 20 0x42) },
    seqInv_of_check (by decide +kernel), ⟨rfl, rfl, rfl⟩, by decide +kernel⟩

end Sys2Proof.Tests
end

section
/-! SUPPORT. How a step without reset begins (10_state.md R41), and the obligations that say so. -/

namespace Sys2Proof.Proofs

open Sys2Proof.Machine Sys2Proof.Claims

/-- A step without reset reads one level of the reset input and is then the phase's step. -/
theorem step_of_noReset {s : State} (h : NoReset s) : step s = phaseStep { s with rst := s.rst.tail } := by
  unfold step sampledStep
  split
  next rest hr => exact absurd (by rw [hr]; rfl) h
  next rest hr => rw [hr]; rfl
  next hr => exact congrArg phaseStep (congrArg (fun r => { s with rst := r }) (by rw [hr]; rfl))

/-- A step with the reset input asserted is the reset event. -/
theorem step_of_reset {s : State} {rest : List Bool} (h : s.rst = true :: rest) :
    step s = .next (resetEvent { s with rst := rest }) := by
  simp only [step, sampledStep, h]

/-- Either the reset input is asserted at the coming step, or it is not. -/
theorem noReset_or (s : State) : NoReset s ∨ ∃ rest, s.rst = true :: rest := by
  unfold NoReset
  rcases s.rst with _ | ⟨_ | _, rest⟩
  · exact .inl (by simp)
  · exact .inl (by simp)
  · exact .inr ⟨rest, rfl⟩

theorem step_idle {s : State} (hn : NoReset s) (hp : s.ph = .idle) :
    step s = idlePhase { s with rst := s.rst.tail } := by
  rw [step_of_noReset hn]; simp only [phaseStep, hp]

theorem step_tx {s : State} (hn : NoReset s) (hp : s.ph = .tx) : step s = txPhase { s with rst := s.rst.tail } := by
  rw [step_of_noReset hn]; simp only [phaseStep, hp]

theorem step_run {s : State} (hn : NoReset s) (hp : s.ph = .scan ∨ s.ph = .pay) :
    step s = rxPhase { s with rst := s.rst.tail } := by
  rw [step_of_noReset hn]; obtain hp | hp := hp <;> simp only [phaseStep, hp]

theorem step_rsp {s : State} (hn : NoReset s) (hp : s.ph = .rsp) : step s = rspPhase { s with rst := s.rst.tail } := by
  rw [step_of_noReset hn]; simp only [phaseStep, hp]

/-- Settles O1: the phase's step on a pending word is `exec` of the decoded word. -/
theorem stepRunsThePendingRequest : Obligations.StepRunsThePendingRequest := by
  intro s w rest hn hp hr
  rw [step_idle hn hp]
  simp only [idlePhase, hr]

theorem step_txDone {s : State} (hn : NoReset s) (hp : s.ph = .tx) (hb : s.txBuf = false) {as : List TxAns}
    (ha : s.txAns = .done :: as) : step s = txDone { s with rst := s.rst.tail, txAns := as } := by
  rw [step_tx hn hp]; simp [txPhase, hb, ha]

theorem step_txFail {s : State} (hn : NoReset s) (hp : s.ph = .tx) (hb : s.txBuf = false) {as : List TxAns}
    (ha : s.txAns = .fail :: as) : step s = txFail { s with rst := s.rst.tail, txAns := as } := by
  rw [step_tx hn hp]; simp [txPhase, hb, ha]

theorem step_rxByte {s : State} (hn : NoReset s) (hp : s.ph = .scan ∨ s.ph = .pay) (hb : s.rxBuf = []) {b : Byte}
    {as : List RxAns} (ha : s.rxAns = .byte b :: as) :
    step s = rxByte b { s with rst := s.rst.tail, rxAns := as } := by
  rw [step_run hn hp]; simp only [rxPhase, hb, ha]

theorem step_rxFail {s : State} (hn : NoReset s) (hp : s.ph = .scan ∨ s.ph = .pay) (hb : s.rxBuf = [])
    {as : List RxAns} (ha : s.rxAns = .fail :: as) : step s = rxFail { s with rst := s.rst.tail, rxAns := as } := by
  rw [step_run hn hp]; simp only [rxPhase, hb, ha]

theorem step_rspTaken {s : State} (hn : NoReset s) (hp : s.ph = .rsp) {n : Nat} (ht : s.takes = n + 1) :
    step s = rspTaken { s with rst := s.rst.tail, takes := n } := by
  rw [step_rsp hn hp]; simp only [rspPhase, ht]

/-- Settles O4, port by port. -/
theorem stepTakesOneByteEvent : Obligations.StepTakesOneByteEvent := fun _ hn =>
  ⟨fun hp hb => ⟨fun _ => step_txDone hn hp hb, fun _ => step_txFail hn hp hb⟩,
    fun hp hb => ⟨fun _ _ => step_rxByte hn hp hb, fun _ => step_rxFail hn hp hb⟩,
    fun hp _ => step_rspTaken hn hp⟩

/-- Settles O5: the phase's step on an empty port is the state itself. -/
theorem stepWaitsForTheEnvironment : Obligations.StepWaitsForTheEnvironment := by
  rintro s hn (⟨hp, hr⟩ | ⟨hp, hb, ha⟩ | ⟨hp, hb, ha⟩ | ⟨hp, ht⟩)
  · rw [step_idle hn hp]; simp only [idlePhase, hr]
  · rw [step_tx hn hp]; simp [txPhase, hb, ha]
  · rw [step_run hn hp]; simp [rxPhase, hb, ha]
  · rw [step_rsp hn hp]; simp only [rspPhase, ht]

/-! Reset (10_state.md R45). -/

theorem resultsUnwritten_resetWith (c : Config) : ResultsUnwritten (State.resetWith c) :=
  ⟨rfl, rfl, rfl, rfl, rfl, rfl, rfl⟩

theorem ctByte_resetEvent (s : State) (k : Kind) (i : Fin 8) : (resetEvent s).ctByte k i = (s.cfg.ctInit k)[i] :=
  ctByte_resetWith s.cfg k i

/-- Settles O6: the reset event is `State.resetWith` of the parameters, the environment kept. -/
theorem resetIsTakenInEveryState : Obligations.ResetIsTakenInEveryState := by
  intro s rest hr
  refine ⟨_, step_of_reset hr, rfl, rfl, ctByte_resetEvent _, fun k => ?_, rfl, rfl, rfl,
    resultsUnwritten_resetWith s.cfg, rfl, rfl, rfl, rfl, rfl, rfl, rfl, rfl, rfl, rfl⟩
  simp only [ctByte_resetEvent]
  exact ⟨rfl, rfl, rfl, rfl⟩

/-- Settles O7, field by field. -/
theorem resetStateValues : Obligations.ResetStateValues :=
  ⟨fun c => ⟨rfl, rfl, rfl, ctByte_resetWith c, rfl, rfl, rfl, resultsUnwritten_resetWith c⟩, rfl⟩

/-- Settles O34: the response carries the registers as they are. -/
theorem responseTakenReturnsToIdle : Obligations.ResponseTakenReturnsToIdle := by
  intro s hp
  refine ⟨s.response, ?_, rfl, rfl, rfl, rfl, rfl, rfl, rfl⟩
  simp only [rspTaken, hp]
  rfl

/-! Frames at a closed port (10_state.md R43). -/

/-- Outside a run a delivery leaves its bytes in front of the unread stream. -/
theorem deliver_unwanted {s : State} (h : s.rxWant = false) (bs : List Byte) :
    deliver bs s = .next { s with rxAns := answers bs ++ s.rxAns } := by
  cases bs with
  | nil => rfl
  | cons b bs => simp only [deliver, h]; rfl

theorem rxWant_eq_false {s : State} : s.rxWant = false ↔ s.ph ≠ .scan ∧ s.ph ≠ .pay := by
  simp [State.rxWant]

/-- A frame of a kind that is not on the TX port is refused (log 12). -/
theorem takeFrame_refused {s : State} {k : Kind} (h : s.ph ≠ .tx ∨ s.kind ≠ k) (bytes : Bool) :
    takeFrame k bytes s = .refused (.frameNotOffered k) := by
  have ho : s.offers k = false := by
    simpa only [State.offers, Bool.and_eq_false_iff, beq_eq_false_iff_ne] using h
  simp [takeFrame, ho]

/-- A command-frame row is the taking of a frame of its kind. -/
theorem exec_cmdFrame {c : Config} {i : Instr} {k : Kind} {t : Template} (h : cmdFrame c i = some (k, t)) (s : State) :
    ∃ bytes, exec i s = takeFrame k bytes s := by
  cases i <;> simp only [cmdFrame, Option.some.injEq, Prod.mk.injEq, reduceCtorEq] at h <;>
    obtain ⟨rfl, -⟩ := h <;> exact ⟨_, rfl⟩

/-- Settles O24: a delivery outside a run, and the taking of a frame that is not offered. -/
theorem framesAtAClosedPort : Obligations.FramesAtAClosedPort := by
  refine ⟨fun s i bs hi hs hp => ?_, fun s i k t hi hc => ?_⟩
  · rw [exec_received hi, deliver_unwanted (rxWant_eq_false.mpr ⟨hs, hp⟩)]
  · obtain ⟨bytes, he⟩ := exec_cmdFrame hi s
    rw [he, takeFrame_refused hc]

/-! The host's reads (10_state.md R24, R33). -/

/-- The read of an unwritten result register is any value of its width (log 16). -/
theorem hostRead_anyValue {s : State} {r : ResultReg} (h : s.resultValue r = none) :
    AnyValue r.width fun d => hostRead r d s := by
  have hw : r.width ≤ 16 := by cases r <;> decide
  refine ⟨fun d => ?_, fun n hn => ⟨BitVec.ofNat 16 n, ?_⟩⟩
  · rw [hostRead_unwritten h]
    exact Nat.mod_lt _ (Nat.two_pow_pos _)
  · have h16 : n < 2 ^ 16 := Nat.lt_of_lt_of_le hn (Nat.pow_le_pow_right (by decide) hw)
    rw [hostRead_unwritten h, BitVec.toNat_ofNat, Nat.mod_eq_of_lt h16, Nat.mod_eq_of_lt hn]

theorem toNat_boolHalf (b : Bool) : (boolHalf b).toNat = if b then 1 else 0 := by
  cases b <;> rfl

theorem toNat_statusCode (st : Status) : (st.code.setWidth 16).toNat = statusCode st := by
  cases st <;> rfl

/-- The read of a boolean result register that holds a value (R34). -/
theorem hostRead_bool {s : State} {r : ResultReg} {b : Bool} (h : s.resultValue r = some (boolHalf b)) (d : Half) :
    (hostRead r d s).toNat = if b then 1 else 0 := by
  rw [hostRead_written h, toNat_boolHalf]

/-- The read of RSP_STATUS when it holds a value (R33). -/
theorem hostRead_status {s : State} {st : Status} (h : s.rspStatus = some st) (d : Half) :
    (hostRead .rspStatus d s).toNat = statusCode st := by
  have hv : s.resultValue .rspStatus = some (st.code.setWidth 16) := by simp only [State.resultValue, h, Option.map_some]
  rw [hostRead_written hv, toNat_statusCode]

/-- Settles O35, register by register. -/
theorem unwrittenResultsHaveNoValue : Obligations.UnwrittenResultsHaveNoValue := by
  intro s
  refine ⟨fun d => ⟨fun v h => hostRead_written (r := .reading) h d, fun v h => hostRead_written (r := .strength) h d,
    fun v h => hostRead_written (r := .rspData) h d,
    fun b h => hostRead_bool (r := .short) (congrArg (Option.map boolHalf) h) d,
    fun b h => hostRead_bool (r := .ckOk) (congrArg (Option.map boolHalf) h) d,
    fun b h => hostRead_bool (r := .measValid) (congrArg (Option.map boolHalf) h) d,
    fun st h => hostRead_status h d⟩,
    fun h => hostRead_anyValue (r := .reading) h, fun h => hostRead_anyValue (r := .strength) h,
    fun h => hostRead_anyValue (r := .rspData) h,
    fun h => hostRead_anyValue (r := .short) (congrArg (Option.map boolHalf) h),
    fun h => hostRead_anyValue (r := .ckOk) (congrArg (Option.map boolHalf) h),
    fun h => hostRead_anyValue (r := .measValid) (congrArg (Option.map boolHalf) h),
    fun h => hostRead_anyValue (r := .rspStatus) ?_⟩
  simp only [State.resultValue, h, Option.map_none]

end Sys2Proof.Proofs
end

section
/-! SUPPORT. Every event of 10_state.md R41 keeps the invariant of the sequencer. `CoreInv` is what SeqInv says without
reading PH or the registers of a run: it holds in the middle of an event too, and each start rule and each end rule makes
the whole invariant of it. -/

namespace Sys2Proof.Proofs

open Sys2Proof.Machine Sys2Proof.Claims

/-- The clauses of SeqInv that speak of the parameters and of the session registers only. -/
structure SessionInv (s : State) : Prop where
  cfgWf : s.cfg.Wf
  devId : s.devId = s.cfg.devId
  msaPos : 1 ≤ s.msa
  msaWidth : s.msa < 2 ^ s.cfg.msaW
  ctFixed : ∀ (k : Kind) (i : Fin 8), i ∉ k.writes → s.ctByte k i = (s.cfg.ctInit k)[i]

/-- The clauses of SeqInv that read neither PH nor the registers of a run. -/
structure CoreInv (s : State) : Prop extends SessionInv s where
  triesPos : s.cx = .enterPending → 1 ≤ s.tries.val
  triesFailed : s.cx = .failed → s.tries.val = 3
  command : s.cx ≠ .idle → kindOfOp s.op s.stage = some s.cmd
  exitKind : s.cx = .exitPending → s.cmd.noExit = false

theorem core_of_seqInv {s : State} (h : SeqInv s) : CoreInv s := { h with }

/-- The default budget fits MSA (00_scope.md R8). -/
theorem default_lt_of_wf {c : Config} (h : c.Wf) : 50 < 2 ^ c.msaW := by
  obtain ⟨-, -, -, -, -, -, -, hw, -⟩ := h
  exact hw

/-! The pairs of 41_command_fsm.md R182. -/

theorem pair_tx_of_frameKind {cx : Cx} {cmd k : Kind} (h : frameKind cx cmd = some k) :
    reachablePair cx .tx = true := by
  cases cx <;> simp_all [frameKind, reachablePair]

theorem pair_scan_of_tx {cx : Cx} (h : reachablePair cx .tx = true) : reachablePair cx .scan = true := by
  cases cx <;> simp_all [reachablePair]

theorem pair_pay_of_scan {cx : Cx} (h : reachablePair cx .scan = true) : reachablePair cx .pay = true := by
  cases cx <;> simp_all [reachablePair]

theorem pair_sending {cx : Cx} (h : reachablePair cx .pay = true) (hc : cx ≠ .idle) :
    cx = .enterPending ∨ cx = .commandSent ∨ cx = .exitPending := by
  cases cx <;> simp_all [reachablePair]

theorem pair_idle_iff {cx : Cx} : reachablePair cx .idle = true ↔ cx = .idle := by
  cases cx <;> simp [reachablePair]

/-! What keeps the session registers' part. -/

theorem SessionInv.resetWith {c : Config} (h : c.Wf) : SessionInv (State.resetWith c) where
  cfgWf := h
  devId := rfl
  msaPos := show 1 ≤ msaDefault by decide
  msaWidth := default_lt_of_wf h
  ctFixed k i _ := ctByte_resetWith c k i

/-- A write at an offset a setter writes for its kind (42_setters.md R192). -/
theorem SessionInv.setCtByte {s : State} (h : SessionInv s) {k : Kind} {i : Fin 8} (hi : i ∈ k.writes) (b : Byte) :
    SessionInv (s.setCtByte k i b) where
  cfgWf := h.cfgWf
  devId := h.devId
  msaPos := h.msaPos
  msaWidth := h.msaWidth
  ctFixed k' j hj := by
    have hne : ¬ (k = k' ∧ i = j) := fun ⟨hk, hij⟩ => hj (hk ▸ hij ▸ hi)
    rw [ctByte_setCtByte, if_neg hne]
    exact h.ctFixed k' j hj

/-- SET_BUDGET stores a budget of at least 1 that fits MSA (44_session_ops.md R252, 10_state.md R23). -/
theorem budgetOf_bounds {c : Config} (h : c.Wf) (arg : Half) : 1 ≤ budgetOf c arg ∧ budgetOf c arg < 2 ^ c.msaW := by
  have hd := default_lt_of_wf h
  have hn : c.narrow arg.toNat < 2 ^ c.msaW := Nat.mod_lt _ (Nat.two_pow_pos _)
  unfold budgetOf
  split <;> omega

theorem SessionInv.setBudget {s : State} (h : SessionInv s) (arg : Half) :
    SessionInv { s with msa := budgetOf s.cfg arg } :=
  { h with msaPos := (budgetOf_bounds h.cfgWf arg).1, msaWidth := (budgetOf_bounds h.cfgWf arg).2 }

/-! The start rules and the end rules. -/

/-- The start of a frame of the kind that CX asks for (41_command_fsm.md R164, R170, R171). -/
theorem seqInv_startFrame {s : State} {k : Kind} (h : CoreInv s) (hv : s.rspValid = false)
    (hk : frameKind s.cx s.cmd = some k) : SeqInv (startFrame k s) :=
  { h with
    rspValid := by simp [hv]
    pair := pair_tx_of_frameKind hk
    txKind := fun _ => hk
    runMode := nofun
    exitScan := nofun
    scan := nofun
    pay := nofun }

/-- `BracketStart(C)` of the operation's kind (R164). -/
theorem seqInv_bracketStart {s : State} {c : Kind} (h : SessionInv s) (hv : s.rspValid = false)
    (hc : kindOfOp s.op s.stage = some c) : SeqInv (bracketStart c s) :=
  seqInv_startFrame
    { h with triesPos := fun _ => Nat.le_refl 1, triesFailed := nofun, command := fun _ => hc, exitKind := nofun } hv rfl

/-- The start of a run (40_frame_sync.md R133). -/
theorem seqInv_startRun {s : State} {m : FsMode} (h : CoreInv s) (hv : s.rspValid = false)
    (hp : reachablePair s.cx .scan = true) (hm : (s.cx ≠ .idle → m = .ack) ∧ (s.cx = .idle → m = .meas ∧ s.op = 0#4))
    (he : s.cx = .exitPending → s.cfg.exitAckScan = true) : SeqInv (startRun m s) :=
  { h with
    rspValid := by simp [hv]
    pair := hp
    txKind := nofun
    runMode := fun _ => hm
    exitScan := fun hc _ => he hc
    scan := fun _ => ⟨show 0 < prefixLen m by cases m <;> decide, h.msaPos, Nat.le_refl 0⟩
    pay := nofun }

/-- The response is presented (R161, 43_decoder.md R230). -/
theorem seqInv_present {s : State} (h : CoreInv s) (hp : reachablePair s.cx .rsp = true) : SeqInv (present s) :=
  { h with
    rspValid := by simp
    pair := hp
    txKind := nofun
    runMode := nofun
    exitScan := nofun
    scan := nofun
    pay := nofun }

theorem seqInv_respond {s : State} (st : Status) (h : CoreInv s) (hp : reachablePair s.cx .rsp = true) :
    SeqInv (respond st s) :=
  seqInv_present (s := { s with rspStatus := some st }) { h with } hp

/-- `Finish(st)` of a bracket that is over (R173). -/
theorem seqInv_finish {s : State} (st : Status) (h : CoreInv s) (hv : s.rspValid = false)
    (hc : s.cx = .done ∨ s.cx = .failed) : SeqInv (finish st s) := by
  have hp : reachablePair s.cx .rsp = true := by obtain hc | hc := hc <;> rw [hc] <;> rfl
  obtain ⟨hop, -, -, he⟩ | ⟨-, -, -, he⟩ | ⟨-, he⟩ := finish_cases st s <;> rw [he]
  · have hs : SessionInv ({ s with stage := .mode }.packSel .mode s.arg) :=
      SessionInv.setCtByte (s := { s with stage := .mode }) { h with } (by decide) _
    exact seqInv_bracketStart hs hv (by simp [hop, kindOfOp])
  · exact seqInv_respond _ h hp
  · exact seqInv_respond _ h hp

/-- `StepResult(r)` (R169 to R172). -/
theorem seqInv_stepResult {r : Status} {s t : State} (h : CoreInv s) (hv : s.rspValid = false)
    (ht : stepResult r s = .next t) : SeqInv t := by
  have hop : s.cx ≠ .idle → kindOfOp s.op s.stage = some s.cmd := h.command
  obtain ⟨hc, -, rfl⟩ | ⟨hc, -, hlt, rfl⟩ | ⟨hc, -, hge, rfl⟩ | ⟨hc, hk, rfl⟩ | ⟨hc, hk, rfl⟩ | ⟨hc, rfl⟩ :=
    stepResult_cases ht <;> rw [hc] at hop <;> replace hop := hop nofun
  · exact seqInv_startFrame
      { h with triesPos := nofun, triesFailed := nofun, command := fun _ => hop, exitKind := nofun } hv rfl
  · refine seqInv_startFrame { h with triesPos := fun _ => ?_, triesFailed := ?_ } hv (by simp [hc, frameKind])
    · show 1 ≤ (s.tries + 1).val
      rw [Fin.val_add_one_of_lt' (by omega)]; omega
    · rintro hf; rw [hc] at hf; cases hf
  · exact seqInv_finish _
      { h with
        triesPos := nofun, triesFailed := fun _ => show s.tries.val = 3 by omega, command := fun _ => hop
        exitKind := nofun } hv (.inr rfl)
  · exact seqInv_finish _
      { h with triesPos := nofun, triesFailed := nofun, command := fun _ => hop, exitKind := nofun } hv (.inl rfl)
  · exact seqInv_startFrame
      { h with triesPos := nofun, triesFailed := nofun, command := fun _ => hop, exitKind := fun _ => hk } hv rfl
  · exact seqInv_finish _
      { h with triesPos := nofun, triesFailed := nofun, command := fun _ => hop, exitKind := nofun } hv (.inl rfl)

/-- The end of a run (40_frame_sync.md R140). -/
theorem seqInv_endRun {found : Bool} {s t : State} (h : CoreInv s) (hv : s.rspValid = false)
    (hm : s.fsmode = .meas → s.cx = .idle) (ht : endRun found s = .next t) : SeqInv t := by
  obtain ⟨-, ht⟩ | ⟨hf, -, rfl⟩ | ⟨hf, -, rfl⟩ := endRun_cases ht
  · exact seqInv_stepResult h hv ht
  · exact seqInv_present (s := decodeMeas s) { h with } (by simp [hm hf, reachablePair])
  · exact seqInv_present (s := { s with measValid := some false }) { h with } (by simp [hm hf, reachablePair])

/-! The events. -/

/-- RSP_VALID is 0 outside PH_RSP (10_state.md R32). -/
theorem rspValid_eq_false {s : State} (h : SeqInv s) (hp : s.ph ≠ .rsp) : s.rspValid = false := by
  simpa [hp] using h.rspValid

/-- In PH_TX a bracket is in progress (41_command_fsm.md R182). -/
theorem cx_ne_idle_of_tx {s : State} (h : SeqInv s) (hp : s.ph = .tx) : s.cx ≠ .idle := by
  intro hc
  have := h.pair
  rw [hc, hp] at this
  cases this

theorem cx_eq_idle_of_idle {s : State} (h : SeqInv s) (hp : s.ph = .idle) : s.cx = .idle := by
  have hpair := h.pair
  rw [hp] at hpair
  exact pair_idle_iff.mp hpair

/-- A MEAS run is READ_MEASUREMENT's: no bracket is in progress (R179). -/
theorem cx_idle_of_meas {s : State} (h : SeqInv s) (hp : s.ph = .scan ∨ s.ph = .pay) (hm : s.fsmode = .meas) :
    s.cx = .idle := by
  by_contra hc
  have hack := (h.runMode hp).1 hc
  rw [hm] at hack
  cases hack

theorem seqInv_observe {s : State} (h : SeqInv s) (o : Obs) : SeqInv (s.observe o) := { h with }

theorem seqInv_byteSent {s t : State} (h : SeqInv s) (hp : s.ph = .tx) (ht : byteSent s = .next t) : SeqInv t := by
  have hv := rspValid_eq_false h (by simp [hp])
  have hc := cx_ne_idle_of_tx h hp
  obtain ⟨-, rfl⟩ | ⟨-, -, -, ht⟩ | ⟨-, hns, rfl⟩ := byteSent_cases ht
  · exact { h with }
  · exact seqInv_stepResult (core_of_seqInv h) hv ht
  · have hpair : reachablePair s.cx .scan = true := by
      have htx := h.pair
      rw [hp] at htx
      exact pair_scan_of_tx htx
    exact seqInv_startRun (core_of_seqInv h) hv hpair ⟨fun _ => rfl, fun hi => absurd hi hc⟩
      fun he => by simpa [he] using hns

theorem seqInv_txDone {s t : State} (h : SeqInv s) (ht : txDone s = .next t) : SeqInv t := by
  obtain ⟨hp, ht⟩ := txDone_cases ht
  exact seqInv_byteSent (seqInv_observe h _) hp ht

theorem seqInv_txFail {s t : State} (h : SeqInv s) (ht : txFail s = .next t) : SeqInv t := by
  obtain ⟨hp, ht⟩ := txFail_cases ht
  have hv := rspValid_eq_false h (by simp [hp])
  exact seqInv_stepResult (core_of_seqInv (seqInv_observe h _)) hv ht

/-- MC after a byte is one more, or 0 (40_frame_sync.md R135, R136). -/
theorem nextMc_cases {m : FsMode} {mc : Fin 4} (h : mc.val < prefixLen m) (b : Byte) :
    (nextMc m mc b).val = mc.val + 1 ∨ (nextMc m mc b).val = 0 := by
  have h3 : prefixLen m ≤ 3 := by cases m <;> decide
  unfold nextMc
  split
  · exact .inl (Fin.val_add_one_of_lt' (by omega))
  · exact .inr rfl

/-- In PH_SCAN the count of read bytes does not wrap (R134, R143). -/
theorem narrow_att {s : State} (h : SeqInv s) (hp : s.ph = .scan) : s.cfg.narrow (s.att + 1) = s.att + 1 := by
  obtain ⟨-, hatt, -⟩ := h.scan hp
  have := h.msaWidth
  exact Nat.mod_eq_of_lt (by omega)

theorem seqInv_searchStep {b : Byte} {s t : State} (h : SeqInv s) (hp : s.ph = .scan) (ht : searchStep b s = .next t) :
    SeqInv t := by
  have hv := rspValid_eq_false h (by simp [hp])
  have hmeas := cx_idle_of_meas h (.inl hp)
  have hatt := narrow_att h hp
  obtain ⟨hmc, hlt, hle⟩ := h.scan hp
  have hnext := nextMc_cases hmc b
  obtain ⟨hfull, rfl⟩ | ⟨-, -, ht⟩ | ⟨hpart, hne, rfl⟩ := searchStep_cases ht
  · have hrun := h.runMode (.inl hp)
    have hpair := h.pair
    rw [hp] at hpair
    rw [afterSearchByte_mc] at hfull
    exact { h with
      rspValid := by simp [hv]
      pair := pair_pay_of_scan hpair
      txKind := nofun
      runMode := fun _ => hrun
      exitScan := fun hc _ => h.exitScan hc (.inl hp)
      scan := nofun
      pay := fun _ => by
        simp only [afterSearchByte_mc, afterSearchByte_att, afterSearchByte_fsmode, afterSearchByte_msa, hatt]
        refine ⟨hfull, by cases s.fsmode <;> decide, ?_, ?_⟩ <;> omega }
  · exact seqInv_endRun (s := afterSearchByte b s) { core_of_seqInv h with } hv hmeas ht
  · rw [afterSearchByte_mc] at hpart
    rw [afterSearchByte_att, hatt] at hne
    exact { h with
      scan := fun _ => by
        simp only [afterSearchByte_mc, afterSearchByte_att, afterSearchByte_fsmode, afterSearchByte_msa, hatt]
        refine ⟨?_, ?_, ?_⟩ <;> omega
      pay := fun hpay => absurd (hp.symm.trans hpay) nofun }

/-- In PH_PAY the payload counter does not wrap (R143). -/
theorem pc_succ {s : State} (h : SeqInv s) (hp : s.ph = .pay) : (s.pc + 1).val = s.pc.val + 1 := by
  obtain ⟨-, hpc, -⟩ := h.pay hp
  have : payloadLen s.fsmode ≤ 7 := by cases s.fsmode <;> decide
  exact Fin.val_add_one_of_lt' (by omega)

theorem seqInv_payloadStep {b : Byte} {s t : State} (h : SeqInv s) (hp : s.ph = .pay)
    (ht : payloadStep b s = .next t) : SeqInv t := by
  obtain ⟨-, ht⟩ | ⟨hne, rfl⟩ := payloadStep_cases ht
  · have hv := rspValid_eq_false h (by simp [hp])
    have hmeas := cx_idle_of_meas h (.inr hp)
    exact seqInv_endRun (s := s.pushPayload b) { core_of_seqInv h with } hv hmeas ht
  · obtain ⟨hmc, hpc, hatt⟩ := h.pay hp
    have hs := pc_succ h hp
    exact { h with
      scan := fun hscan => absurd (hp.symm.trans hscan) nofun
      pay := fun _ => ⟨hmc, show (s.pc + 1).val < payloadLen s.fsmode by omega, hatt⟩ }

theorem seqInv_rxByte {b : Byte} {s t : State} (h : SeqInv s) (ht : rxByte b s = .next t) : SeqInv t := by
  obtain ⟨hp, ht⟩ | ⟨hp, ht⟩ := rxByte_cases ht
  · exact seqInv_searchStep (seqInv_observe h _) hp ht
  · exact seqInv_payloadStep (seqInv_observe h _) hp ht

theorem seqInv_rxFail {s t : State} (h : SeqInv s) (ht : rxFail s = .next t) : SeqInv t := by
  obtain ⟨hp, ht⟩ := rxFail_cases ht
  have hv := rspValid_eq_false h (by obtain hp | hp := hp <;> simp [hp])
  have hmeas := cx_idle_of_meas h hp
  exact seqInv_endRun (core_of_seqInv (seqInv_observe h _)) hv hmeas ht

theorem seqInv_rspTaken {s t : State} (h : SeqInv s) (ht : rspTaken s = .next t) : SeqInv t := by
  obtain ⟨-, rfl⟩ := rspTaken_cases ht
  exact { h with
    rspValid := by simp
    pair := rfl
    txKind := nofun
    triesPos := nofun
    triesFailed := nofun
    runMode := nofun
    command := fun hc => absurd rfl hc
    exitKind := nofun
    exitScan := nofun
    scan := nofun
    pay := nofun }

/-- Right after reset (10_state.md R45). -/
theorem seqInv_resetWith {c : Config} (h : c.Wf) : SeqInv (State.resetWith c) :=
  { SessionInv.resetWith h with
    rspValid := by simp [State.resetWith]
    pair := rfl
    txKind := nofun
    triesPos := nofun
    triesFailed := nofun
    runMode := by simp [State.resetWith]
    command := fun hc => absurd rfl hc
    exitKind := nofun
    exitScan := nofun
    scan := nofun
    pay := nofun }

theorem seqInv_resetEvent {s : State} (h : SeqInv s) : SeqInv (resetEvent s) := { seqInv_resetWith h.cfgWf with }

/-! The operation codes of the start rules (30_encoding.md R100, R104). -/

/-- Only the kind of SET_DISTANCE_MODE depends on the stage. -/
theorem kindOfOp_stage {op : BitVec 4} (h : op ≠ 6) (st : Stage) : kindOfOp op st = kindOfOp op .pattern := by
  have hall : ∀ op : BitVec 4, op ≠ 6 → kindOfOp op .mode = kindOfOp op .pattern := by decide
  cases st
  · rfl
  · exact hall op h

theorem selector_kind {op : BitVec 4} {k : Kind}
    (h : (op, k) ∈ [((2 : BitVec 4), Kind.format), (4, .unit), (5, .pattern), (10, .baud), (11, .trigSrc)]) :
    op ≠ 6 ∧ kindOfOp op .pattern = some k ∧ 6 ∈ k.writes := by
  have hall : ∀ p ∈ [((2 : BitVec 4), Kind.format), (4, .unit), (5, .pattern), (10, .baud), (11, .trigSrc)],
      p.1 ≠ 6 ∧ kindOfOp p.1 .pattern = some p.2 ∧ 6 ∈ p.2.writes := by decide
  exact hall _ h

theorem numeric_kind {op : BitVec 4} {k : Kind}
    (h : (op, k) ∈ [((3 : BitVec 4), Kind.period), (8, .strLo), (9, .strHi)]) :
    op ≠ 6 ∧ kindOfOp op .pattern = some k ∧ 4 ∈ k.writes ∧ 5 ∈ k.writes := by
  have hall : ∀ p ∈ [((3 : BitVec 4), Kind.period), (8, .strLo), (9, .strHi)],
      p.1 ≠ 6 ∧ kindOfOp p.1 .pattern = some p.2 ∧ 4 ∈ p.2.writes ∧ 5 ∈ p.2.writes := by decide
  exact hall _ h

theorem fixed_kind {op : BitVec 4} {k : Kind} (h : (op, k) ∈ [((12 : BitVec 4), Kind.trigger), (13, .reset)]) :
    op ≠ 6 ∧ kindOfOp op .pattern = some k := by
  have hall : ∀ p ∈ [((12 : BitVec 4), Kind.trigger), (13, .reset)],
      p.1 ≠ 6 ∧ kindOfOp p.1 .pattern = some p.2 := by decide
  exact hall _ h

/-- The accepted request with its registers latched, in PH_IDLE: what the start rules find. -/
theorem core_acceptReq {s : State} (h : SeqInv s) (hp : s.ph = .idle) (op : BitVec 4) (arg : Half) :
    CoreInv (acceptReq op arg s) :=
  have hc : s.cx = .idle := cx_eq_idle_of_idle h hp
  { core_of_seqInv h with command := fun hn => absurd hc hn }

/-- An accepted request (10_state.md R41). -/
theorem seqInv_request {w : BitVec 20} {s t : State} (h : SeqInv s) (hp : s.ph = .idle)
    (ht : exec (decodeReqWord w) s = .next t) : SeqInv t := by
  have hc : s.cx = .idle := cx_eq_idle_of_idle h hp
  have hv : s.rspValid = false := rspValid_eq_false h (by simp [hp])
  have hrsp : reachablePair s.cx .rsp = true := by rw [hc]; rfl
  have hcore := core_acceptReq h hp
  have hsession := fun op arg => (hcore op arg).toSessionInv
  apply request_cases ht hp
  case hread =>
    intro arg
    exact seqInv_startRun (hcore 0 arg) hv (by rw [acceptReq_cx, hc]; rfl)
      ⟨fun hn => absurd hc hn, fun _ => ⟨rfl, rfl⟩⟩ fun he => absurd (hc.symm.trans he) nofun
  case hget =>
    intro arg
    exact seqInv_respond (s := { acceptReq 1 arg s with rspData := _ }) _ { hcore 1 arg with } hrsp
  case hset =>
    intro arg
    have hset : SessionInv { acceptReq 14 arg s with msa := budgetOf s.cfg arg } := (hsession 14 arg).setBudget arg
    exact seqInv_respond _ { hset, hcore 14 arg with } hrsp
  case hsel =>
    intro op arg k hm
    obtain ⟨hop, hk, h6⟩ := selector_kind hm
    exact seqInv_bracketStart ((hsession op arg).setCtByte h6 _) hv ((kindOfOp_stage hop _).trans hk)
  case hnum =>
    intro op arg k hm
    obtain ⟨hop, hk, h4, h5⟩ := numeric_kind hm
    exact seqInv_bracketStart (((hsession op arg).setCtByte h4 _).setCtByte h5 _) hv ((kindOfOp_stage hop _).trans hk)
  case hrange =>
    intro arg
    have h4 := (hsession 7 arg).setCtByte (k := .range) (i := 4) (by decide) (loByte arg)
    have h5 := h4.setCtByte (k := .range) (i := 5) (by decide) (hiByte arg)
    exact seqInv_bracketStart (h5.setCtByte (by decide) _) hv rfl
  case hmode =>
    intro arg
    have hstage : SessionInv { acceptReq 6 arg s with stage := .pattern } := { hsession 6 arg with }
    exact seqInv_bracketStart (hstage.setCtByte (by decide) _) hv rfl
  case hfix =>
    intro op arg k hm
    obtain ⟨hop, hk⟩ := fixed_kind hm
    exact seqInv_bracketStart (hsession op arg) hv ((kindOfOp_stage hop _).trans hk)
  case hrej =>
    intro op arg _
    exact seqInv_respond _ (hcore op arg) hrsp

/-- Settles O47: each event keeps the invariant, and the environment's lists are none of its business. -/
theorem stepKeepsTheInvariant : Obligations.StepKeepsTheInvariant := fun _ _ h ht =>
  step_keeps (P := SeqInv) (fun _ _ _ _ _ _ _ _ h => { h with }) (fun _ => seqInv_resetEvent)
    (fun _ _ _ => seqInv_request) (fun _ _ => seqInv_txDone) (fun _ _ => seqInv_txFail) (fun _ _ _ => seqInv_rxByte)
    (fun _ _ => seqInv_rxFail) (fun _ _ => seqInv_rspTaken) h ht

/-- Settles O48: the three invariants after reset; PH_IDLE leaves nothing to say of results and reads. -/
theorem invariantsHoldAfterReset : Obligations.InvariantsHoldAfterReset :=
  ⟨fun c h => ⟨seqInv_resetWith h,
      { busy := fun hp => by simp [State.resetWith] at hp, measurement := nofun, status := nofun, failed := nofun },
      { scan := nofun, pay := nofun }⟩,
    seqInv_resetWith (by decide +kernel)⟩

end Sys2Proof.Proofs
end

section
/-! SUPPORT. Everything a step without reset can do outside PH_IDLE, said once: some bytes are transferred, which changes
the registers of the transfer only (`Transfer`), and then the operation makes at most one move (`Move`). A buffer call
(20_memory.md R61) is no exception: the engine stops asking at the byte that moves it. -/

namespace Sys2Proof.Proofs

open Sys2Proof.Machine Sys2Proof.Claims

/-- m is s with bytes transferred: the registers of the transfer, the environment's lists and the history are free, a run
may have gone from PH_SCAN to PH_PAY, and nothing else has changed. -/
structure Transfer (s m : State) : Prop where
  frame : m = { s with
    pb := m.pb, ph := m.ph, txi := m.txi, mc := m.mc, att := m.att, pc := m.pc, rst := m.rst, takes := m.takes
    txAns := m.txAns, rxAns := m.rxAns, txBuf := m.txBuf, rxBuf := m.rxBuf, hist := m.hist }
  phase : m.ph = s.ph ∨ (s.ph = .scan ∧ m.ph = .pay)

/-- What the operation in progress can do with the bytes transferred: nothing, start the run after a frame
(41_command_fsm.md R166), take a Status (R169), present a measurement or none (43_decoder.md R230, R239), or return to
PH_IDLE (10_state.md R41). -/
inductive Move (m : State) : State → Prop where
  | stay : Move m m
  | listen (hp : m.ph = .tx) : Move m (startRun .ack m)
  | result {r : Status} {u : State} (hp : m.ph = .tx ∨ m.ph = .scan ∨ m.ph = .pay) (h : stepResult r m = .next u) :
      Move m u
  | measured (hp : m.ph = .scan ∨ m.ph = .pay) (hm : m.fsmode = .meas) : Move m (present (decodeMeas m))
  | missed (hp : m.ph = .scan ∨ m.ph = .pay) (hm : m.fsmode = .meas) :
      Move m (present { m with measValid := some false })
  | taken (hp : m.ph = .rsp) : Move m (toIdle m)

namespace Transfer

theorem trans {s m u : State} (h : Transfer s m) (h' : Transfer m u) : Transfer s u where
  frame := h'.frame.trans (by rw [h.frame])
  phase := by
    obtain hp | ⟨hs, hp⟩ := h.phase <;> obtain hp' | ⟨hs', hp'⟩ := h'.phase
    · exact .inl (hp'.trans hp)
    · exact .inr ⟨hp ▸ hs', hp'⟩
    · exact .inr ⟨hs, hp'.trans hp⟩
    · exact .inr ⟨hs, hp'⟩

variable {s m : State} (h : Transfer s m)
include h

theorem cfg : m.cfg = s.cfg := by rw [h.frame]
theorem devId : m.devId = s.devId := by rw [h.frame]
theorem msa : m.msa = s.msa := by rw [h.frame]
theorem ct : m.ct = s.ct := by rw [h.frame]
theorem cx : m.cx = s.cx := by rw [h.frame]
theorem op : m.op = s.op := by rw [h.frame]
theorem stage : m.stage = s.stage := by rw [h.frame]
theorem cmd : m.cmd = s.cmd := by rw [h.frame]
theorem stat : m.stat = s.stat := by rw [h.frame]
theorem fsmode : m.fsmode = s.fsmode := by rw [h.frame]
theorem reqs : m.reqs = s.reqs := by rw [h.frame]

theorem sameResults : SameResults s m := by
  rw [h.frame]; exact ⟨rfl, rfl, rfl, rfl, rfl, rfl, rfl⟩

/-- Within a run a transfer stays in the run. -/
theorem receiving_iff : (m.ph = .scan ∨ m.ph = .pay) ↔ (s.ph = .scan ∨ s.ph = .pay) := by
  obtain hp | ⟨hs, hp⟩ := h.phase <;> simp [*]

end Transfer

/-! The events. -/

theorem byteSent_move {s t : State} (hp : s.ph = .tx) (h : byteSent s = .next t) : ∃ m, Transfer s m ∧ Move m t := by
  obtain ⟨-, rfl⟩ | ⟨-, -, -, h⟩ | ⟨-, -, rfl⟩ := byteSent_cases h
  · exact ⟨{ s with txi := s.txi + 1 }, ⟨rfl, .inl rfl⟩, .stay⟩
  · exact ⟨s, ⟨rfl, .inl rfl⟩, .result (.inl hp) h⟩
  · exact ⟨s, ⟨rfl, .inl rfl⟩, .listen hp⟩

theorem observe_transfer (s : State) (o : Obs) : Transfer s (s.observe o) := ⟨rfl, .inl rfl⟩

theorem txDone_move {s t : State} (h : txDone s = .next t) : ∃ m, Transfer s m ∧ Move m t := by
  obtain ⟨hp, h⟩ := txDone_cases h
  obtain ⟨m, hm, hmove⟩ := byteSent_move (s := s.observe _) hp h
  exact ⟨m, (observe_transfer s _).trans hm, hmove⟩

theorem txFail_move {s t : State} (h : txFail s = .next t) : ∃ m, Transfer s m ∧ Move m t := by
  obtain ⟨hp, h⟩ := txFail_cases h
  exact ⟨_, observe_transfer s _, .result (.inl hp) h⟩

theorem endRun_move {found : Bool} {s t : State} (hp : s.ph = .scan ∨ s.ph = .pay) (h : endRun found s = .next t) :
    Move s t := by
  obtain ⟨-, h⟩ | ⟨hm, -, rfl⟩ | ⟨hm, -, rfl⟩ := endRun_cases h
  · exact .result (.inr hp) h
  · exact .measured hp hm
  · exact .missed hp hm

theorem rxByte_move {b : Byte} {s t : State} (h : rxByte b s = .next t) : ∃ m, Transfer s m ∧ Move m t := by
  obtain ⟨hp, h⟩ | ⟨hp, h⟩ := rxByte_cases h
  · have hafter : Transfer s (afterSearchByte b (s.observe (.rx s.devId (.byte b)))) := ⟨rfl, .inl rfl⟩
    obtain ⟨-, rfl⟩ | ⟨-, -, h⟩ | ⟨-, -, rfl⟩ := searchStep_cases h
    · exact ⟨_, hafter.trans ⟨rfl, .inr ⟨hp, rfl⟩⟩, .stay⟩
    · exact ⟨_, hafter, endRun_move (.inl hp) h⟩
    · exact ⟨_, hafter, .stay⟩
  · have hafter : Transfer s ((s.observe (.rx s.devId (.byte b))).pushPayload b) := ⟨rfl, .inl rfl⟩
    obtain ⟨-, h⟩ | ⟨-, rfl⟩ := payloadStep_cases h
    · exact ⟨_, hafter, endRun_move (.inr hp) h⟩
    · exact ⟨_, hafter, .stay⟩

theorem rxFail_move {s t : State} (h : rxFail s = .next t) : ∃ m, Transfer s m ∧ Move m t := by
  obtain ⟨hp, h⟩ := rxFail_cases h
  exact ⟨_, observe_transfer s _, endRun_move (s := s.observe _) hp h⟩

theorem rspTaken_move {s t : State} (h : rspTaken s = .next t) : ∃ m, Transfer s m ∧ Move m t := by
  obtain ⟨hp, rfl⟩ := rspTaken_cases h
  exact ⟨_, observe_transfer s _, .taken hp⟩

/-! A delivery of bytes. -/

/-- `Finish` starts the second bracket of SET_DISTANCE_MODE or responds (41_command_fsm.md R173); a failure is answered as
a failure. -/
theorem finish_outcome (st : Status) (s : State) :
    (s.op = 6#4 ∧ s.stage = .pattern ∧ st = .success ∧ finish st s = startModeStage s) ∨
    (∃ st', finish st s = respond st' s ∧ (st = .errorTransmission → st' = .errorTransmission)) := by
  obtain h | ⟨-, -, -, h⟩ | ⟨-, h⟩ := finish_cases st s
  · exact .inl h
  · exact .inr ⟨_, h, fun _ => rfl⟩
  · exact .inr ⟨_, h, id⟩

/-- After a Status the next frame is offered or the response is presented: no run is in progress. -/
theorem stepResult_ph {r : Status} {s t : State} (h : stepResult r s = .next t) : t.ph = .tx ∨ t.ph = .rsp := by
  have hf : ∀ st s, (finish st s).ph = .tx ∨ (finish st s).ph = .rsp := fun st s => by
    obtain ⟨-, -, -, hf⟩ | ⟨st', hf, -⟩ := finish_outcome st s <;> rw [hf]
    · exact .inl rfl
    · exact .inr rfl
  obtain ⟨-, -, rfl⟩ | ⟨-, -, -, rfl⟩ | ⟨-, -, -, rfl⟩ | ⟨-, -, rfl⟩ | ⟨-, -, rfl⟩ | ⟨-, rfl⟩ := stepResult_cases h
  · exact .inl rfl
  · exact .inl rfl
  · exact hf ..
  · exact hf ..
  · exact .inl rfl
  · exact hf ..

/-- A move from a run into a run is none: every end of a run leaves PH_SCAN and PH_PAY. -/
theorem Move.eq_of_receiving {m u : State} (h : Move m u) (hm : m.ph = .scan ∨ m.ph = .pay)
    (hu : u.ph = .scan ∨ u.ph = .pay) : u = m := by
  cases h with
  | stay => rfl
  | listen hp => simp [hp] at hm
  | result _ h => obtain hp | hp := stepResult_ph h <;> simp [hp] at hu
  | measured => simp at hu
  | missed => simp at hu
  | taken hp => simp [hp] at hm

/-- A delivery is a transfer and at most one move; the bytes the engine no longer asks for are left in the stream. -/
theorem deliver_move {bs : List Byte} {s t : State} (hp : s.ph = .scan ∨ s.ph = .pay) (h : deliver bs s = .next t) :
    ∃ m u as, Transfer s m ∧ Move m u ∧ t = { u with rxAns := as } := by
  induction bs generalizing s with
  | nil => cases h; exact ⟨t, t, t.rxAns, ⟨rfl, .inl rfl⟩, .stay, rfl⟩
  | cons b bs ih =>
    have hw : s.rxWant = true := by obtain hp | hp := hp <;> simp [State.rxWant, hp]
    rw [deliver, if_pos hw] at h
    obtain ⟨u, hu, h⟩ := andThen_cases h
    obtain ⟨m, hm, hmove⟩ := rxByte_move hu
    by_cases hup : u.ph = .scan ∨ u.ph = .pay
    · obtain rfl := hmove.eq_of_receiving (hm.receiving_iff.mpr hp) hup
      obtain ⟨m', u', as, hm', hmove', rfl⟩ := ih hup h
      exact ⟨m', u', as, hm.trans hm', hmove', rfl⟩
    · rw [deliver_unwanted (rxWant_eq_false.mpr (not_or.mp hup))] at h
      cases h
      exact ⟨m, u, _, hm, hmove, rfl⟩

/-- Everything a step without reset can do outside PH_IDLE. -/
theorem busyStep_cases {s t : State} (hn : NoReset s) (hi : s.ph ≠ .idle) (h : step s = .next t) :
    ∃ m u as, Transfer s m ∧ Move m u ∧ t = { u with rxAns := as } := by
  have event : ∀ {s' t : State}, (∃ m, Transfer s' m ∧ Move m t) → Transfer s s' →
      ∃ m u as, Transfer s m ∧ Move m u ∧ t = { u with rxAns := as } := fun ⟨m, hm, hmove⟩ hs =>
    ⟨m, _, _, hs.trans hm, hmove, rfl⟩
  have wait : ∃ m u as, Transfer s m ∧ Move m u ∧ { s with rst := s.rst.tail } = { u with rxAns := as } :=
    ⟨{ s with rst := s.rst.tail }, _, s.rxAns, ⟨rfl, .inl rfl⟩, .stay, rfl⟩
  obtain ⟨hp, -⟩ | ⟨hp, -⟩ | ⟨hp, -, h⟩ | ⟨-, -, -, rfl⟩ | ⟨-, -, as, -, h⟩ | ⟨-, -, as, -, h⟩ | ⟨hp, -, h⟩ |
    ⟨-, -, -, rfl⟩ | ⟨-, -, b, as, -, h⟩ | ⟨-, -, as, -, h⟩ | ⟨-, -, rfl⟩ | ⟨-, n, -, h⟩ := step_cases hn h
  · exact absurd hp hi
  · exact absurd hp hi
  · have hrest := sendRest_tx (s := { s with rst := s.rst.tail, txBuf := false }) hp
    exact event (txDone_move (hrest.symm.trans h)) ⟨rfl, .inl rfl⟩
  · exact wait
  · exact event (txDone_move h) ⟨rfl, .inl rfl⟩
  · exact event (txFail_move h) ⟨rfl, .inl rfl⟩
  · have hs : Transfer s { s with rst := s.rst.tail, rxBuf := [] } := ⟨rfl, .inl rfl⟩
    obtain ⟨m, u, as, hm, hmove, ht⟩ := deliver_move (s := { s with rst := s.rst.tail, rxBuf := [] }) hp h
    exact ⟨m, u, as, hs.trans hm, hmove, ht⟩
  · exact wait
  · exact event (rxByte_move h) ⟨rfl, .inl rfl⟩
  · exact event (rxFail_move h) ⟨rfl, .inl rfl⟩
  · exact wait
  · exact event (rspTaken_move h) ⟨rfl, .inl rfl⟩

/-- Everything a step without reset can do in PH_IDLE. -/
theorem idleStep_cases {s t : State} (hn : NoReset s) (hp : s.ph = .idle) (h : step s = .next t) :
    (s.reqs = [] ∧ t = { s with rst := s.rst.tail }) ∨
    (∃ w rest, s.reqs = w :: rest ∧ exec (decodeReqWord w) { s with rst := s.rst.tail, reqs := rest } = .next t) := by
  cases hr : s.reqs with
  | nil =>
    rw [stepWaitsForTheEnvironment s hn (.inl ⟨hp, hr⟩)] at h
    cases h
    exact .inl ⟨rfl, by rw [hr]⟩
  | cons w rest =>
    rw [stepRunsThePendingRequest s w rest hn hp hr] at h
    exact .inr ⟨w, rest, rfl, h⟩

end Sys2Proof.Proofs
end

section
/-! SUPPORT. What a move leaves unchanged, and the obligations that say what a step may write: the session registers, the
command table, the result registers. -/

namespace Sys2Proof.Proofs

open Sys2Proof.Machine Sys2Proof.Claims

/-- The registers and the pending requests that only a request or a reset changes. -/
structure SameSession (s t : State) : Prop where
  cfg : t.cfg = s.cfg
  devId : t.devId = s.devId
  msa : t.msa = s.msa
  reqs : t.reqs = s.reqs

theorem sameSession_finish (st : Status) (s : State) : SameSession s (finish st s) := by
  obtain ⟨-, -, -, h⟩ | ⟨st', h, -⟩ := finish_outcome st s <;> rw [h] <;> exact ⟨rfl, rfl, rfl, rfl⟩

theorem sameSession_stepResult {r : Status} {s t : State} (h : stepResult r s = .next t) : SameSession s t := by
  obtain ⟨-, -, rfl⟩ | ⟨-, -, -, rfl⟩ | ⟨-, -, -, rfl⟩ | ⟨-, -, rfl⟩ | ⟨-, -, rfl⟩ | ⟨-, rfl⟩ := stepResult_cases h
  · exact ⟨rfl, rfl, rfl, rfl⟩
  · exact ⟨rfl, rfl, rfl, rfl⟩
  · exact { sameSession_finish _ _ with }
  · exact { sameSession_finish _ _ with }
  · exact ⟨rfl, rfl, rfl, rfl⟩
  · exact { sameSession_finish _ _ with }

theorem Move.sameSession {m u : State} (h : Move m u) : SameSession m u := by
  cases h with
  | stay => exact ⟨rfl, rfl, rfl, rfl⟩
  | listen => exact ⟨rfl, rfl, rfl, rfl⟩
  | result _ h => exact sameSession_stepResult h
  | measured => exact ⟨rfl, rfl, rfl, rfl⟩
  | missed => exact ⟨rfl, rfl, rfl, rfl⟩
  | taken => exact ⟨rfl, rfl, rfl, rfl⟩

/-- A step without reset outside PH_IDLE changes no session register and takes no request. -/
theorem busyStep_sameSession {s t : State} (hn : NoReset s) (hi : s.ph ≠ .idle) (h : step s = .next t) :
    SameSession s t := by
  obtain ⟨m, u, as, hm, hmove, rfl⟩ := busyStep_cases hn hi h
  have hu := hmove.sameSession
  exact ⟨hu.cfg.trans hm.cfg, hu.devId.trans hm.devId, hu.msa.trans hm.msa, hu.reqs.trans hm.reqs⟩

/-! Requests. -/

theorem whenIdle_busy {s : State} (h : s.ph ≠ .idle) (k : State → State) : whenIdle s k = .next s := if_neg h

/-- A request of an operation that the spec defines is accepted in PH_IDLE only, and latches its operation code
(10_state.md R41). -/
theorem exec_request {i : Instr} {op : BitVec 4} {arg : Half} (hr : reqOp i = some (op, arg)) (hop : op ≠ 15#4) :
    ∃ k : State → State, (∀ s, exec i s = whenIdle s k) ∧ ∀ s, (k s).op = op := by
  cases i <;> simp only [reqOp, Option.some.injEq, Prod.mk.injEq, reduceCtorEq] at hr <;> obtain ⟨rfl, rfl⟩ := hr
  case reservedOp15 => exact absurd rfl hop
  case readMeasurement => exact ⟨_, fun _ => rfl, fun _ => rfl⟩
  case getBudget => exact ⟨_, fun _ => rfl, fun _ => rfl⟩
  case setBudget => exact ⟨_, fun _ => rfl, fun _ => rfl⟩
  all_goals
    refine ⟨_, fun _ => rfl, fun s => ?_⟩
    dsimp only
    split <;> rfl

/-- Settles O20: `whenIdle` on a busy engine, and what a step outside PH_IDLE leaves unchanged. -/
theorem requestsWaitWhileTheEngineIsBusy : Obligations.RequestsWaitWhileTheEngineIsBusy := by
  refine ⟨fun s i op arg hi hr hop => ?_, fun s t hi h => ?_⟩
  · obtain ⟨k, hk, -⟩ := exec_request hr hop
    rw [hk, whenIdle_busy hi]
  · obtain hn | ⟨rest, hr⟩ := noReset_or s
    · exact (busyStep_sameSession hn hi h).reqs
    · rw [step_of_reset hr] at h
      cases h
      rfl

/-- A request word is its operation code and its argument (30_encoding.md R103). -/
theorem reqOp_decodeReqWord (w : BitVec 20) :
    reqOp (decodeReqWord w) = some (w.extractLsb' 16 4, w.extractLsb' 0 16) := by
  unfold decodeReqWord
  generalize w.extractLsb' 16 4 = op
  obtain ⟨n⟩ := op
  fin_cases n <;> rfl

theorem word_of_fields (w : BitVec 20) : w = word (w.extractLsb' 16 4).toNat (w.extractLsb' 0 16) := by
  apply BitVec.eq_of_toNat_eq
  have := w.isLt
  simp only [word, BitVec.extractLsb'_toNat, BitVec.toNat_ofNat, Nat.shiftRight_eq_div_pow]
  omega

/-- What an accepted request word does, with the operation code it has. -/
theorem request_word {w : BitVec 20} {s t : State} (h : exec (decodeReqWord w) s = .next t) (hi : s.ph = .idle) :
    w = word t.op.toNat (w.extractLsb' 0 16) := by
  have hr := reqOp_decodeReqWord w
  have hop : w.extractLsb' 16 4 ≠ 15#4 := by
    intro h15
    have hres : decodeReqWord w = .reservedOp15 (w.extractLsb' 0 16) := by simp only [decodeReqWord, h15]; rfl
    rw [hres] at h
    cases h
  obtain ⟨k, hk, hlatch⟩ := exec_request hr hop
  obtain ⟨-, rfl⟩ | ⟨hp, -⟩ := whenIdle_cases ((hk s).symm.trans h)
  · rw [hlatch]; exact word_of_fields w
  · exact absurd hi hp

/-! The session registers. -/

/-- An accepted request leaves the parameters and DEV_ID, and only SET_BUDGET writes MSA (44_session_ops.md R253). -/
theorem request_session {w : BitVec 20} {s t : State} (h : exec (decodeReqWord w) s = .next t) (hi : s.ph = .idle) :
    t.cfg = s.cfg ∧ t.devId = s.devId ∧ (t.msa = s.msa ∨ t.op = 14#4) := by
  apply request_cases h hi
  case hset => exact fun arg => ⟨rfl, rfl, .inr rfl⟩
  all_goals intros; exact ⟨rfl, rfl, .inl rfl⟩

/-- Settles O52: reset keeps the parameters, a step outside PH_IDLE keeps the session registers, and in PH_IDLE the request
that changes MSA has the operation code of SET_BUDGET. -/
theorem onlySetBudgetChangesTheBudget : Obligations.OnlySetBudgetChangesTheBudget := by
  intro s t h
  obtain hn | ⟨rest, hr⟩ := noReset_or s
  · by_cases hi : s.ph = .idle
    · obtain ⟨-, rfl⟩ | ⟨w, rest, hr, h⟩ := idleStep_cases hn hi h
      · exact ⟨rfl, fun _ => ⟨rfl, fun hne => absurd rfl hne⟩⟩
      · have hw := request_word h hi
        obtain ⟨hcfg, hdev, hmsa⟩ := request_session h hi
        refine ⟨hcfg, fun _ => ⟨hdev, fun hne => ⟨hi, w.extractLsb' 0 16, rest, ?_⟩⟩⟩
        rw [hmsa.resolve_left hne] at hw
        rw [hr]
        exact congrArg (· :: rest) hw
    · have hs := busyStep_sameSession hn hi h
      exact ⟨hs.cfg, fun _ => ⟨hs.devId, fun hne => absurd hs.msa hne⟩⟩
  · refine ⟨?_, fun hn => absurd (by rw [hr]; rfl) hn⟩
    rw [step_of_reset hr] at h
    cases h
    rfl

/-! The command table. -/

/-- `Finish` writes a template byte only at the end of stage 0 of SET_DISTANCE_MODE (42_setters.md R199). -/
theorem finish_ctByte {st : Status} {s : State} {k : Kind} {j : Fin 8} (h : (finish st s).ctByte k j ≠ s.ctByte k j) :
    k = .mode ∧ j = 6 ∧ s.op = 6#4 ∧ s.stage = .pattern ∧ st = .success := by
  obtain ⟨hop, hs, hst, he⟩ | ⟨st', he, -⟩ := finish_outcome st s <;> rw [he] at h
  · have hw : (startModeStage s).ctByte k j = if .mode = k ∧ 6 = j then loByte s.arg else s.ctByte k j :=
      ctByte_packSel { s with stage := .mode } .mode k s.arg j
    rw [hw] at h
    by_cases hk : .mode = k ∧ 6 = j
    · exact ⟨hk.1.symm, hk.2.symm, hop, hs, hst⟩
    · rw [if_neg hk] at h
      exact absurd rfl h
  · exact absurd rfl h

/-- A Status writes a template byte only where it ends the bracket of stage 0 with Success. -/
theorem stepResult_ctByte {r : Status} {s t : State} {k : Kind} {j : Fin 8} (h : stepResult r s = .next t)
    (hne : t.ctByte k j ≠ s.ctByte k j) :
    (k = .mode ∧ j = 6 ∧ s.op = 6#4 ∧ s.stage = .pattern) ∧
      ((s.cx = .exitPending ∧ s.stat = .success) ∨ (s.cx = .commandSent ∧ s.cmd.noExit = true)) := by
  obtain ⟨-, -, rfl⟩ | ⟨-, -, -, rfl⟩ | ⟨-, -, -, rfl⟩ | ⟨hc, hk, rfl⟩ | ⟨-, -, rfl⟩ | ⟨hc, rfl⟩ := stepResult_cases h
  · exact absurd rfl hne
  · exact absurd rfl hne
  · obtain ⟨-, -, -, -, hst⟩ := finish_ctByte hne
    cases hst
  · obtain ⟨hmode, hj, hop, hs, -⟩ := finish_ctByte hne
    exact ⟨⟨hmode, hj, hop, hs⟩, .inr ⟨hc, hk⟩⟩
  · exact absurd rfl hne
  · obtain ⟨hmode, hj, hop, hs, hst⟩ := finish_ctByte hne
    exact ⟨⟨hmode, hj, hop, hs⟩, .inl ⟨hc, hst⟩⟩

/-- A move that writes a template byte ends a bracket. -/
theorem Move.ctByte {m u : State} {k : Kind} {j : Fin 8} (h : Move m u) (hne : u.ctByte k j ≠ m.ctByte k j) :
    ∃ r, stepResult r m = .next u := by
  cases h with
  | result _ h => exact ⟨_, h⟩
  | stay => exact absurd rfl hne
  | listen => exact absurd rfl hne
  | measured => exact absurd rfl hne
  | missed => exact absurd rfl hne
  | taken => exact absurd rfl hne

/-- From s to t the table changed at most where the setter of kind k writes (R192). -/
def WritesOnly (k : Kind) (s t : State) : Prop :=
  ∀ (k' : Kind) (j : Fin 8), t.ctByte k' j = s.ctByte k' j ∨ (k' = k ∧ j ∈ k.writes)

theorem WritesOnly.refl (k : Kind) (s : State) : WritesOnly k s s := fun _ _ => .inl rfl

theorem WritesOnly.setCtByte {k : Kind} {s t : State} {i : Fin 8} (h : WritesOnly k s t) (hi : i ∈ k.writes) (b : Byte) :
    WritesOnly k s (t.setCtByte k i b) := by
  intro k' j
  rw [ctByte_setCtByte]
  split
  next hk => exact .inr ⟨hk.1.symm, hk.2 ▸ hi⟩
  next => exact h k' j

/-- An accepted request writes only the template of its operation's kind, where its setter writes. -/
theorem request_writes {w : BitVec 20} {s t : State} (h : exec (decodeReqWord w) s = .next t) (hi : s.ph = .idle) :
    t.ct = s.ct ∨ ∃ k, kindOfOp t.op .pattern = some k ∧ WritesOnly k s t := by
  apply request_cases h hi
  case hsel =>
    intro op arg k hm
    obtain ⟨-, hk, h6⟩ := selector_kind hm
    exact .inr ⟨k, hk, (WritesOnly.refl k s).setCtByte h6 (loByte arg)⟩
  case hnum =>
    intro op arg k hm
    obtain ⟨-, hk, h4, h5⟩ := numeric_kind hm
    exact .inr ⟨k, hk, ((WritesOnly.refl k s).setCtByte h4 (loByte arg)).setCtByte h5 (hiByte arg)⟩
  case hrange =>
    intro arg
    have h4 := (WritesOnly.refl .range s).setCtByte (i := 4) (by decide) (loByte arg)
    have h5 := h4.setCtByte (i := 5) (by decide) (hiByte arg)
    exact .inr ⟨.range, rfl, h5.setCtByte (i := 6) (by decide) (s.cfg.rangeFlag arg)⟩
  case hmode =>
    intro arg
    exact .inr ⟨.pattern, rfl, (WritesOnly.refl .pattern s).setCtByte (i := 6) (by decide) s.cfg.patternFix⟩
  all_goals intros; exact .inl rfl

/-- Settles O51: in PH_IDLE the request's own setter writes; outside it the one move that writes is the end of stage 0,
whose bracket ends in ExitPending because the pattern kind has an exit frame. -/
theorem onlySettersWriteTheTable : Obligations.OnlySettersWriteTheTable := by
  intro s t k j hinv hn h hne
  by_cases hi : s.ph = .idle
  · obtain ⟨-, rfl⟩ | ⟨w, rest, hr, h⟩ := idleStep_cases hn hi h
    · exact absurd rfl hne
    · obtain hct | ⟨k', hk, hw⟩ := request_writes h hi
      · exact absurd (ctByte_congr hct k j) hne
      · obtain ⟨rfl, hj⟩ := (hw k j).resolve_left hne
        have hword := request_word h hi
        refine ⟨hj, .inl ⟨hi, t.op.toNat, w.extractLsb' 0 16, rest, t.op.isLt, ?_, ?_⟩⟩
        · rw [hr]; exact congrArg (· :: rest) hword
        · rw [BitVec.ofNat_toNat, BitVec.setWidth_eq]; exact hk
  · obtain ⟨m, u, as, hm, hmove, rfl⟩ := busyStep_cases hn hi h
    have hne' : u.ctByte k j ≠ m.ctByte k j := fun he => hne (he.trans (ctByte_congr hm.ct k j))
    obtain ⟨r, hres⟩ := hmove.ctByte hne'
    obtain ⟨⟨rfl, rfl, hop, hstage⟩, hend⟩ := stepResult_ctByte hres hne'
    rw [hm.op] at hop
    rw [hm.stage] at hstage
    rw [hm.cx, hm.stat, hm.cmd] at hend
    obtain ⟨hcx, hst⟩ | ⟨hcx, hk⟩ := hend
    · exact ⟨by decide, .inr ⟨rfl, hop, hstage, hcx, hst⟩⟩
    · have hcmd := hinv.command (by simp [hcx])
      rw [hop, hstage] at hcmd
      have hpattern : Kind.pattern = s.cmd := Option.some.inj hcmd
      rw [← hpattern] at hk
      cases hk

end Sys2Proof.Proofs
end

section
/-! SUPPORT. The result registers (10_state.md R24, R26, R32, R34): what a move writes of them, and their invariant. -/

namespace Sys2Proof.Proofs

open Sys2Proof.Machine Sys2Proof.Claims

theorem sameResults_refl (s : State) : SameResults s s := ⟨rfl, rfl, rfl, rfl, rfl, rfl, rfl⟩

theorem sameResults_trans {s t u : State} (h : SameResults s t) (h' : SameResults t u) : SameResults s u := by
  obtain ⟨h1, h2, h3, h4, h5, h6, h7⟩ := h
  obtain ⟨g1, g2, g3, g4, g5, g6, g7⟩ := h'
  exact ⟨g1.trans h1, g2.trans h2, g3.trans h3, g4.trans h4, g5.trans h5, g6.trans h6, g7.trans h7⟩

/-- What a Status can lead to: the next frame is offered and no result register has changed, or the operation has ended,
which writes RSP_STATUS only, a bracket that was not entered being answered with ErrorTransmission (41_command_fsm.md R169
to R174). -/
def AfterStatus (s t : State) : Prop :=
  (t.ph = .tx ∧ SameResults s t ∧ t.cx ≠ .failed) ∨
  (∃ st m, t = respond st m ∧ SameResults s m ∧ m.op = s.op ∧ (m.cx = .failed → st = .errorTransmission))

theorem afterStatus_finish {st : Status} {s m : State} (hm : SameResults s m) (hop : m.op = s.op)
    (hfail : m.cx = .failed → st = .errorTransmission) : AfterStatus s (finish st m) := by
  obtain ⟨-, -, -, hf⟩ | ⟨st', hf, hst⟩ := finish_outcome st m <;> rw [hf]
  · exact .inl ⟨rfl, hm, nofun⟩
  · exact .inr ⟨st', m, rfl, hm, hop, fun hc => hst (hfail hc)⟩

theorem stepResult_results {r : Status} {s t : State} (h : stepResult r s = .next t) : AfterStatus s t := by
  have same := sameResults_refl s
  obtain ⟨-, -, rfl⟩ | ⟨hc, -, -, rfl⟩ | ⟨-, -, -, rfl⟩ | ⟨-, -, rfl⟩ | ⟨-, -, rfl⟩ | ⟨-, rfl⟩ := stepResult_cases h
  · exact .inl ⟨rfl, same, nofun⟩
  · exact .inl ⟨rfl, same, fun hf => absurd (hc.symm.trans hf) nofun⟩
  · exact afterStatus_finish (m := { s with cx := .failed }) same rfl fun _ => rfl
  · exact afterStatus_finish (m := { s with stat := r, cx := .done }) same rfl nofun
  · exact .inl ⟨rfl, same, nofun⟩
  · exact afterStatus_finish (m := { s with cx := .done }) same rfl nofun

/-- A move writes a result register only where it presents the response (10_state.md R41). -/
theorem Move.sameResults {m u : State} (h : Move m u) (hp : m.ph = .rsp ∨ u.ph ≠ .rsp) : SameResults m u := by
  cases h with
  | stay => exact sameResults_refl m
  | listen => exact sameResults_refl m
  | result hm h =>
    obtain ⟨-, hres, -⟩ | ⟨st, m', rfl, -⟩ := stepResult_results h
    · exact hres
    · simp at hp; simp [hp] at hm
  | measured hm => simp at hp; simp [hp] at hm
  | missed hm => simp at hp; simp [hp] at hm
  | taken => exact sameResults_refl m

/-- Settles O56: outside PH_IDLE a move that presents no response writes no result register, and a step that waits writes
nothing. -/
theorem resultsStayUntilTheNextRequest : Obligations.ResultsStayUntilTheNextRequest := by
  have busy : ∀ {s t : State}, NoReset s → s.ph ≠ .idle → step s = .next t → s.ph = .rsp ∨ t.ph ≠ .rsp →
      SameResults s t := by
    intro s t hn hi h hp
    obtain ⟨m, u, as, hm, hmove, rfl⟩ := busyStep_cases hn hi h
    have hpm : m.ph = .rsp ∨ u.ph ≠ .rsp := hp.imp_left fun hs => by
      obtain hph | ⟨hscan, -⟩ := hm.phase
      · exact hph.trans hs
      · exact absurd (hscan.symm.trans hs) nofun
    exact sameResults_trans hm.sameResults (hmove.sameResults hpm)
  rintro s t hn h (hp | ⟨hi, ht⟩ | ⟨hi, hr⟩)
  · exact busy hn (by simp [hp]) h (.inl hp)
  · exact busy hn hi h (.inr ht)
  · obtain ⟨-, rfl⟩ | ⟨w, rest, hw, -⟩ := idleStep_cases hn hi h
    · exact sameResults_refl s
    · rw [hr] at hw; cases hw

/-! The invariant of the result registers. -/

theorem resultsUnwritten_of_same {s t : State} (h : SameResults s t) (hs : ResultsUnwritten s) : ResultsUnwritten t := by
  obtain ⟨h1, h2, h3, h4, h5, h6, h7⟩ := h
  obtain ⟨g1, g2, g3, g4, g5, g6, g7⟩ := hs
  exact ⟨h1.trans g1, h2.trans g2, h3.trans g3, h4.trans g4, h5.trans g5, h6.trans g6, h7.trans g7⟩

/-- While the operation runs: nothing is written, and no bracket has failed. -/
theorem resultInv_running {s : State} (h : ResultsUnwritten s) (hp : s.ph ≠ .rsp) (hc : s.cx ≠ .failed) :
    ResultInv s where
  busy _ := h
  measurement hr := absurd hr hp
  status hr := absurd hr hp
  failed hf := absurd hf hc

/-- In PH_IDLE there is nothing to say. -/
theorem resultInv_idle {s : State} (hp : s.ph = .idle) (hc : s.cx = .idle) : ResultInv s where
  busy := by simp [hp]
  measurement := by simp [hp]
  status := by simp [hp]
  failed := by simp [hc]

/-- `Respond(st)` of an operation other than READ_MEASUREMENT (41_command_fsm.md R161): RSP_DATA is GET_BUDGET's. -/
theorem resultInv_respond {st : Status} {s : State} (h : ResultsUnwritten { s with rspData := none })
    (hop : s.op ≠ 0#4) (hdata : s.rspData.isSome = true ↔ s.op = 1#4) (hc : s.cx = .failed → st = .errorTransmission) :
    ResultInv (respond st s) := by
  obtain ⟨hr, hg, hs, hk, hv, -, -⟩ := h
  exact
    { busy := by simp
      measurement := fun _ h0 => absurd h0 hop
      status := fun _ _ => ⟨rfl, hr, hg, hs, hk, hv, hdata⟩
      failed := fun hf => congrArg some (hc hf) }

/-- The response of READ_MEASUREMENT (43_decoder.md R230, R239). -/
theorem resultInv_present {s : State} (hop : s.op = 0#4) (hc : s.cx = .idle) (hst : s.rspStatus = none)
    (hd : s.rspData = none) (hv : s.measValid.isSome = true)
    (hvalid : s.measValid = some true → s.ckOk = some true ∧ s.reading.isSome = true ∧ s.reading ≠ some sentinel ∧
      s.strength.isSome = true ∧ s.short.isSome = true) : ResultInv (present s) where
  busy := by simp
  measurement _ _ := ⟨hst, hd, hv, hvalid⟩
  status _ h0 := absurd hop h0
  failed hf := absurd (hc.symm.trans hf) nofun

/-- MEAS_VALID of a decoded payload implies what 10_state.md R26 says of it. -/
theorem decodeMeas_valid {s : State} (h : (decodeMeas s).measValid = some true) :
    (decodeMeas s).ckOk = some true ∧ (decodeMeas s).reading.isSome = true ∧ (decodeMeas s).reading ≠ some sentinel ∧
      (decodeMeas s).strength.isSome = true ∧ (decodeMeas s).short.isSome = true := by
  have hv : measValidOf s.cfg s.pb = true := Option.some.inj h
  simp only [measValidOf, Bool.and_eq_true, bne_iff_ne] at hv
  obtain ⟨⟨hck, hr⟩, hm⟩ := hv
  refine ⟨congrArg some hck, rfl, fun he => hr (Option.some.inj he), rfl, ?_⟩
  rw [decodeMeas_short]
  cases hc : classifyMode s.cfg s.pb[4]
  · rw [hc] at hm; cases hm
  · rfl

/-- Bytes transferred change no result register, and a run that goes to PH_PAY is still running. -/
theorem resultInv_transfer {s m : State} (h : ResultInv s) (hm : Transfer s m) : ResultInv m := by
  obtain hp | ⟨hs, hp⟩ := hm.phase
  · rw [hm.frame, hp]; exact { h with }
  · have hu := resultsUnwritten_of_same hm.sameResults (h.busy (by simp [hs]))
    refine resultInv_running hu (by simp [hp]) fun hf => ?_
    have hst := h.failed (hm.cx ▸ hf)
    obtain ⟨-, -, -, -, -, hst', -⟩ := h.busy (by simp [hs])
    rw [hst'] at hst
    cases hst

/-- No operation that executes a bracket is READ_MEASUREMENT or GET_BUDGET (30_encoding.md R100). -/
theorem op_of_kindOfOp {op : BitVec 4} {st : Stage} {k : Kind} (h : kindOfOp op st = some k) : op ≠ 0#4 ∧ op ≠ 1#4 := by
  constructor <;> rintro rfl <;> cases h

/-- A move keeps the invariant of the result registers, given the two facts of SeqInv that say whose response it is. -/
theorem Move.resultInv {m u : State} (h : ResultInv m) (hmove : Move m u)
    (hcmd : m.cx ≠ .idle → kindOfOp m.op m.stage = some m.cmd)
    (hmeas : m.ph = .scan ∨ m.ph = .pay → m.fsmode = .meas → m.cx = .idle ∧ m.op = 0#4) : ResultInv u := by
  cases hmove with
  | stay => exact h
  | listen hp =>
    exact { busy := fun _ => h.busy (.inl hp), measurement := nofun, status := nofun, failed := h.failed }
  | result hp hres =>
    have hu : ResultsUnwritten m := h.busy hp
    have hcx : m.cx ≠ .idle := by
      intro hc
      simp [stepResult, hc] at hres
    obtain ⟨hop0, hop1⟩ := op_of_kindOfOp (hcmd hcx)
    obtain ⟨hpu, hsame, hfail⟩ | ⟨st, m', rfl, hsame, hop, hfail⟩ := stepResult_results hres
    · exact resultInv_running (resultsUnwritten_of_same hsame hu) (by simp [hpu]) hfail
    · obtain ⟨hr, hg, hs, hk, hv, hst, hd⟩ := resultsUnwritten_of_same hsame hu
      exact resultInv_respond ⟨hr, hg, hs, hk, hv, hst, rfl⟩ (hop ▸ hop0) (by simp [hd, hop, hop1]) hfail
  | measured hp hm =>
    obtain ⟨-, -, -, -, -, hst, hd⟩ := h.busy (.inr hp)
    obtain ⟨hc, hop⟩ := hmeas hp hm
    exact resultInv_present (s := decodeMeas m) hop hc hst hd rfl decodeMeas_valid
  | missed hp hm =>
    obtain ⟨-, -, -, -, -, hst, hd⟩ := h.busy (.inr hp)
    obtain ⟨hc, hop⟩ := hmeas hp hm
    exact resultInv_present (s := { m with measValid := some false }) hop hc hst hd rfl nofun
  | taken => exact resultInv_idle rfl rfl

/-- An accepted request unwrites every result register, and what is answered at once is a Status. -/
theorem resultInv_request {w : BitVec 20} {s t : State} (h : exec (decodeReqWord w) s = .next t) (hi : s.ph = .idle)
    (hc : s.cx = .idle) : ResultInv t := by
  have unwritten : ∀ op arg, ResultsUnwritten (acceptReq op arg s) := fun _ _ => ⟨rfl, rfl, rfl, rfl, rfl, rfl, rfl⟩
  have hfail : ∀ {P : Prop}, s.cx = .failed → P := fun hf => absurd (hc.symm.trans hf) nofun
  apply request_cases h hi
  case hread => exact fun arg => resultInv_running (unwritten 0 arg) nofun hfail
  case hget =>
    exact fun arg => resultInv_respond (s := { acceptReq 1 arg s with rspData := _ }) (unwritten 1 arg)
      (show (1 : BitVec 4) ≠ 0 by decide) ⟨fun _ => rfl, fun _ => rfl⟩ hfail
  case hset =>
    exact fun arg => resultInv_respond (s := { acceptReq 14 arg s with msa := _ }) (unwritten 14 arg)
      (show (14 : BitVec 4) ≠ 0 by decide) ⟨nofun, fun h1 => absurd h1 (show (14 : BitVec 4) ≠ 1 by decide)⟩ hfail
  case hrej =>
    intro op arg hop
    have hne : ∀ op ∈ [(3 : BitVec 4), 7, 8, 9], op ≠ 0 ∧ op ≠ 1 := by decide
    obtain ⟨h0, h1⟩ := hne op hop
    exact resultInv_respond (unwritten op arg) h0 ⟨nofun, fun h => absurd h h1⟩ hfail
  all_goals intros; exact resultInv_running ⟨rfl, rfl, rfl, rfl, rfl, rfl, rfl⟩ nofun nofun

/-- Settles O49: reset and PH_IDLE say nothing, a request unwrites, and outside PH_IDLE it is bytes and a move. -/
theorem stepKeepsTheResultInvariant : Obligations.StepKeepsTheResultInvariant := by
  intro s t hinv hres h
  obtain hn | ⟨rest, hr⟩ := noReset_or s
  · by_cases hi : s.ph = .idle
    · have hc := cx_eq_idle_of_idle hinv hi
      obtain ⟨-, rfl⟩ | ⟨w, rest, hr, h⟩ := idleStep_cases hn hi h
      · exact resultInv_idle hi hc
      · exact resultInv_request h hi hc
    · obtain ⟨m, u, as, hm, hmove, rfl⟩ := busyStep_cases hn hi h
      have hu : ResultInv u := by
        refine hmove.resultInv (resultInv_transfer hres hm) ?_ fun hp hmeas => ?_
        · rw [hm.cx, hm.op, hm.stage, hm.cmd]
          exact hinv.command
        · rw [hm.receiving_iff] at hp
          rw [hm.fsmode] at hmeas
          have hc := cx_idle_of_meas hinv hp hmeas
          rw [hm.cx, hm.op]
          exact ⟨hc, ((hinv.runMode hp).2 hc).2⟩
      exact { hu with }
  · rw [step_of_reset hr] at h
    cases h
    exact resultInv_idle rfl rfl

end Sys2Proof.Proofs
end

section
/-! SUPPORT. An operation in progress reaches its response (10_state.md R42, 41_command_fsm.md R177, 40_frame_sync.md R142):
`txNeed` and `rxNeed` bound the answers it still needs, and every answer lowers one of them and raises neither. -/

namespace Sys2Proof.Proofs

open Sys2Proof.Machine Sys2Proof.Claims

/-- The frames of the bracket that may follow stage 0 of SET_DISTANCE_MODE (42_setters.md R199): three entries, the command
and the exit. -/
def stageFrames (s : State) : Nat := if s.op = 6#4 ∧ s.stage = .pattern then 5 else 0

/-- The frames that may still follow the one of CX (41_command_fsm.md R170 to R173). -/
def framesLeft (s : State) : Nat :=
  match s.cx with
  | .enterPending => 5 - s.tries.val + stageFrames s
  | .commandSent => 1 + stageFrames s
  | .exitPending => stageFrames s
  | .idle => 0
  | .done => 0
  | .failed => 0

/-- A bound on the TX answers still needed. -/
def txNeed (s : State) : Nat :=
  match s.ph with
  | .tx => 8 * framesLeft s + (8 - s.txi.val)
  | .scan => 8 * framesLeft s
  | .pay => 8 * framesLeft s
  | .idle => 0
  | .rsp => 0

/-- A bound on the RX answers still needed: MSA and a status byte for the run of each frame, and the rest of this run. -/
def rxNeed (s : State) : Nat :=
  match s.ph with
  | .tx => (s.msa + 1) * framesLeft s + (s.msa + 1)
  | .scan => (s.msa + 1) * framesLeft s + (s.msa - s.att + payloadLen s.fsmode)
  | .pay => (s.msa + 1) * framesLeft s + (payloadLen s.fsmode - s.pc.val)
  | .idle => 0
  | .rsp => 0

theorem txNeed_tx {s : State} (h : s.ph = .tx) : txNeed s = 8 * framesLeft s + (8 - s.txi.val) := by
  simp only [txNeed, h]

theorem txNeed_run {s : State} (h : s.ph = .scan ∨ s.ph = .pay) : txNeed s = 8 * framesLeft s := by
  obtain h | h := h <;> simp only [txNeed, h]

theorem rxNeed_tx {s : State} (h : s.ph = .tx) : rxNeed s = (s.msa + 1) * framesLeft s + (s.msa + 1) := by
  simp only [rxNeed, h]

theorem rxNeed_scan {s : State} (h : s.ph = .scan) :
    rxNeed s = (s.msa + 1) * framesLeft s + (s.msa - s.att + payloadLen s.fsmode) := by
  simp only [rxNeed, h]

theorem rxNeed_pay {s : State} (h : s.ph = .pay) :
    rxNeed s = (s.msa + 1) * framesLeft s + (payloadLen s.fsmode - s.pc.val) := by
  simp only [rxNeed, h]

/-- The ports' lists that decide what the next steps of a run at the byte grain are. -/
def SamePorts (s t : State) : Prop :=
  t.rst = s.rst ∧ t.txBuf = s.txBuf ∧ t.rxBuf = s.rxBuf ∧ t.txAns = s.txAns ∧ t.rxAns = s.rxAns

/-- From s an event led to t, where an operation is in progress or answered that needs at most these many answers. -/
structure Within (s t : State) (tx rx : Nat) : Prop where
  ports : SamePorts s t
  busy : t.ph ≠ .idle
  tx : txNeed t ≤ tx
  rx : rxNeed t ≤ rx

theorem Within.mono {s t : State} {tx rx tx' rx' : Nat} (h : Within s t tx rx) (htx : tx ≤ tx') (hrx : rx ≤ rx') :
    Within s t tx' rx' :=
  { h with tx := h.tx.trans htx, rx := h.rx.trans hrx }

/-! The moves. -/

/-- A frame and its run, out of n that were left. -/
theorem within_startFrame {s : State} {k : Kind} {n : Nat} (h : framesLeft s + 1 ≤ n) :
    Within s (startFrame k s) (8 * n) ((s.msa + 1) * n) where
  ports := ⟨rfl, rfl, rfl, rfl, rfl⟩
  busy := nofun
  tx := by
    show 8 * framesLeft s + 8 ≤ 8 * n
    omega
  rx := Nat.mul_le_mul_left (s.msa + 1) h

theorem within_present (s : State) (tx rx : Nat) : Within s (present s) tx rx where
  ports := ⟨rfl, rfl, rfl, rfl, rfl⟩
  busy := nofun
  tx := Nat.zero_le tx
  rx := Nat.zero_le rx

/-- `Finish`: a second bracket, of at most five frames, or the response. -/
theorem within_finish {st : Status} {s : State} {n : Nat} (h : stageFrames s ≤ n) :
    Within s (finish st s) (8 * n) ((s.msa + 1) * n) := by
  obtain ⟨hop, hs, -, he⟩ | ⟨st', he, -⟩ := finish_outcome st s <;> rw [he]
  · have h5 : stageFrames s = 5 := if_pos ⟨hop, hs⟩
    have hleft : framesLeft (startModeStage s) = 4 := by simp [framesLeft, stageFrames]
    exact { within_startFrame (k := .enter) (s := startModeStage s) (n := n) (by omega) with }
  · exact { within_present { s with rspStatus := some st' } (8 * n) ((s.msa + 1) * n) with }

/-- `StepResult`: one frame fewer is left, whatever the Status. -/
theorem within_stepResult {r : Status} {s t : State} (h : stepResult r s = .next t) :
    Within s t (8 * framesLeft s) ((s.msa + 1) * framesLeft s) := by
  obtain ⟨hc, -, rfl⟩ | ⟨hc, -, hlt, rfl⟩ | ⟨hc, -, -, rfl⟩ | ⟨hc, -, rfl⟩ | ⟨hc, -, rfl⟩ | ⟨hc, rfl⟩ :=
    stepResult_cases h
  · have hn : 1 + stageFrames s + 1 ≤ framesLeft s := by simp only [framesLeft, hc]; omega
    exact { within_startFrame (s := { s with cx := .commandSent }) hn with }
  · have hn : 5 - (s.tries + 1).val + stageFrames s + 1 ≤ framesLeft s := by
      rw [Fin.val_add_one_of_lt' (by omega)]
      simp only [framesLeft, hc]; omega
    have hleft : framesLeft { s with tries := s.tries + 1 } = 5 - (s.tries + 1).val + stageFrames s := by
      simp only [framesLeft, hc]; rfl
    exact { within_startFrame (s := { s with tries := s.tries + 1 }) (hleft ▸ hn) with }
  · have hn : stageFrames s ≤ framesLeft s := by simp only [framesLeft, hc]; omega
    exact { within_finish (s := { s with cx := .failed }) hn with }
  · have hn : stageFrames s ≤ framesLeft s := by simp only [framesLeft, hc]; omega
    exact { within_finish (s := { s with stat := r, cx := .done }) hn with }
  · have hn : stageFrames s + 1 ≤ framesLeft s := by simp only [framesLeft, hc]; omega
    exact { within_startFrame (s := { s with stat := r, cx := .exitPending }) hn with }
  · have hn : stageFrames s ≤ framesLeft s := by simp only [framesLeft, hc]; omega
    exact { within_finish (s := { s with cx := .done }) hn with }

/-- The end of a run. -/
theorem within_endRun {found : Bool} {s t : State} (h : endRun found s = .next t) :
    Within s t (8 * framesLeft s) ((s.msa + 1) * framesLeft s) := by
  obtain ⟨-, h⟩ | ⟨-, -, rfl⟩ | ⟨-, -, rfl⟩ := endRun_cases h
  · exact within_stepResult h
  · exact { within_present (decodeMeas s) _ _ with }
  · exact { within_present { s with measValid := some false } _ _ with }

/-! The events: from a state of the invariant each answers a next state, and uses up one answer. -/

theorem within_byteSent {s t : State} (hp : s.ph = .tx) (h : byteSent s = .next t) :
    Within s t (txNeed s - 1) (rxNeed s) := by
  rw [txNeed_tx hp, rxNeed_tx hp]
  have htxi := s.txi.isLt
  obtain ⟨hlt, rfl⟩ | ⟨-, -, -, h⟩ | ⟨-, -, rfl⟩ := byteSent_cases h
  · have hs : (s.txi + 1).val = s.txi.val + 1 := Fin.val_add_one_of_lt' (by omega)
    have htx := txNeed_tx (s := { s with txi := s.txi + 1 }) hp
    refine ⟨⟨rfl, rfl, rfl, rfl, rfl⟩, by simp [hp], htx.trans_le ?_, (rxNeed_tx (s := { s with txi := _ }) hp).le⟩
    show 8 * framesLeft s + (8 - (s.txi + 1).val) ≤ _
    omega
  · exact (within_stepResult h).mono (by omega) (by omega)
  · refine ⟨⟨rfl, rfl, rfl, rfl, rfl⟩, nofun, ?_, (rxNeed_scan (s := startRun .ack s) rfl).le⟩
    show 8 * framesLeft s ≤ _
    omega

theorem within_txDone {s t : State} (h : txDone s = .next t) : Within s t (txNeed s - 1) (rxNeed s) := by
  obtain ⟨hp, h⟩ := txDone_cases h
  exact { within_byteSent (s := s.observe _) hp h with }

theorem within_txFail {s t : State} (h : txFail s = .next t) : Within s t (txNeed s - 1) (rxNeed s) := by
  obtain ⟨hp, h⟩ := txFail_cases h
  have hw : Within s t (8 * framesLeft s) ((s.msa + 1) * framesLeft s) := { within_stepResult h with }
  have htxi := s.txi.isLt
  rw [txNeed_tx hp, rxNeed_tx hp]
  exact hw.mono (by omega) (by omega)

theorem within_searchStep {b : Byte} {s t : State} (h : SeqInv s) (hp : s.ph = .scan) (ht : searchStep b s = .next t) :
    Within s t (txNeed s) (rxNeed s - 1) := by
  obtain ⟨-, hatt, -⟩ := h.scan hp
  have hnarrow := narrow_att h hp
  rw [txNeed_run (.inl hp), rxNeed_scan hp]
  have hleft : framesLeft (afterSearchByte b s) = framesLeft s := rfl
  obtain ⟨-, rfl⟩ | ⟨-, -, ht⟩ | ⟨-, -, rfl⟩ := searchStep_cases ht
  · have hrx := rxNeed_pay (s := { afterSearchByte b s with pc := 0, ph := .pay }) rfl
    refine ⟨⟨rfl, rfl, rfl, rfl, rfl⟩, nofun, Nat.le_refl _, hrx.trans_le ?_⟩
    show (s.msa + 1) * framesLeft s + (payloadLen s.fsmode - 0) ≤ _
    omega
  · have hw : Within s t (8 * framesLeft s) ((s.msa + 1) * framesLeft s) := { within_endRun ht with }
    exact hw.mono (Nat.le_refl _) (by omega)
  · have hrx := rxNeed_scan (s := afterSearchByte b s) hp
    refine ⟨⟨rfl, rfl, rfl, rfl, rfl⟩, by simp [hp], (txNeed_run (.inl hp)).le, hrx.trans_le ?_⟩
    rw [afterSearchByte_att, hnarrow, hleft, afterSearchByte_msa, afterSearchByte_fsmode]
    omega

theorem within_payloadStep {b : Byte} {s t : State} (h : SeqInv s) (hp : s.ph = .pay)
    (ht : payloadStep b s = .next t) : Within s t (txNeed s) (rxNeed s - 1) := by
  obtain ⟨-, hpc, -⟩ := h.pay hp
  have hs := pc_succ h hp
  rw [txNeed_run (.inr hp), rxNeed_pay hp]
  obtain ⟨-, ht⟩ | ⟨-, rfl⟩ := payloadStep_cases ht
  · have hw : Within s t (8 * framesLeft s) ((s.msa + 1) * framesLeft s) := { within_endRun ht with }
    exact hw.mono (Nat.le_refl _) (by omega)
  · have hrx := rxNeed_pay (s := s.pushPayload b) hp
    refine ⟨⟨rfl, rfl, rfl, rfl, rfl⟩, by simp [hp], (txNeed_run (.inr hp)).le, hrx.trans_le ?_⟩
    show (s.msa + 1) * framesLeft s + (payloadLen s.fsmode - (s.pc + 1).val) ≤ _
    omega

theorem within_rxByte {b : Byte} {s t : State} (h : SeqInv s) (ht : rxByte b s = .next t) :
    Within s t (txNeed s) (rxNeed s - 1) := by
  have ho := seqInv_observe h (.rx s.devId (.byte b))
  obtain ⟨hp, ht⟩ | ⟨hp, ht⟩ := rxByte_cases ht
  · exact { within_searchStep ho hp ht with }
  · exact { within_payloadStep ho hp ht with }

/-- A run still needs an answer. -/
theorem rxNeed_pos {s : State} (h : SeqInv s) (hp : s.ph = .scan ∨ s.ph = .pay) :
    (s.msa + 1) * framesLeft s + 1 ≤ rxNeed s := by
  obtain hp | hp := hp
  · obtain ⟨-, hatt, -⟩ := h.scan hp
    rw [rxNeed_scan hp]; omega
  · obtain ⟨-, hpc, -⟩ := h.pay hp
    rw [rxNeed_pay hp]; omega

theorem within_rxFail {s t : State} (h : SeqInv s) (ht : rxFail s = .next t) :
    Within s t (txNeed s) (rxNeed s - 1) := by
  obtain ⟨hp, ht⟩ := rxFail_cases ht
  have hw : Within s t (8 * framesLeft s) ((s.msa + 1) * framesLeft s) := { within_endRun ht with }
  have hpos := rxNeed_pos h hp
  exact hw.mono (txNeed_run hp).ge (by omega)

/-- In a bracket's frame or run CX is one of the three states that take a Status (41_command_fsm.md R169, R182). -/
theorem cx_takes_status {s : State} (h : SeqInv s) (hp : s.ph = .tx ∨ s.ph = .scan ∨ s.ph = .pay) (hc : s.cx ≠ .idle) :
    s.cx = .enterPending ∨ s.cx = .commandSent ∨ s.cx = .exitPending := by
  have hpair := h.pair
  obtain hp | hp | hp := hp <;> rw [hp] at hpair
  · exact pair_sending (pair_pay_of_scan (pair_scan_of_tx hpair)) hc
  · exact pair_sending (pair_pay_of_scan hpair) hc
  · exact pair_sending hpair hc

theorem txDone_answers {s : State} (h : SeqInv s) (hp : s.ph = .tx) : ∃ t, txDone s = .next t := by
  have hcx := cx_takes_status h (.inl hp) (cx_ne_idle_of_tx h hp)
  rw [txDone_tx hp]
  unfold byteSent
  split
  · exact ⟨_, rfl⟩
  · split
    · exact stepResult_answers _ hcx
    · exact ⟨_, rfl⟩

theorem txFail_answers {s : State} (h : SeqInv s) (hp : s.ph = .tx) : ∃ t, txFail s = .next t := by
  have hcx := cx_takes_status h (.inl hp) (cx_ne_idle_of_tx h hp)
  rw [txFail_tx hp]
  exact stepResult_answers _ hcx

/-- A run of the invariant is READ_MEASUREMENT's, or CX takes its Status: its end answers a next state. -/
theorem endRun_answers {s m : State} (h : SeqInv s) (hp : s.ph = .scan ∨ s.ph = .pay) (hm : Transfer s m)
    (found : Bool) : ∃ t, endRun found m = .next t := by
  unfold endRun
  split
  next hf =>
    have hc : s.cx ≠ .idle := fun hc => by
      obtain ⟨hmeas, -⟩ := (h.runMode hp).2 hc
      rw [hm.fsmode, hmeas] at hf
      cases hf
    refine stepResult_answers _ ?_
    rw [hm.cx]
    exact cx_takes_status h (.inr hp) hc
  next => exact ⟨_, rfl⟩

theorem rxByte_answers {s : State} (h : SeqInv s) (hp : s.ph = .scan ∨ s.ph = .pay) (b : Byte) :
    ∃ t, rxByte b s = .next t := by
  obtain hs | hs := hp
  · have hm : Transfer s (afterSearchByte b (s.observe (.rx s.devId (.byte b)))) := ⟨rfl, .inl rfl⟩
    simp only [rxByte, hs, searchStep, searchTests]
    split
    · exact ⟨_, rfl⟩
    · split
      · exact endRun_answers h (.inl hs) hm false
      · exact ⟨_, rfl⟩
  · have hm : Transfer s ((s.observe (.rx s.devId (.byte b))).pushPayload b) := ⟨rfl, .inl rfl⟩
    simp only [rxByte, hs, payloadStep, payloadTest]
    split
    · exact endRun_answers h (.inr hs) hm true
    · exact ⟨_, rfl⟩

theorem rxFail_answers {s : State} (h : SeqInv s) (hp : s.ph = .scan ∨ s.ph = .pay) : ∃ t, rxFail s = .next t := by
  have he := endRun_answers h hp (observe_transfer s (.rx s.devId .fail)) false
  obtain hs | hs := hp <;> simpa only [rxFail, hs] using he

/-! The steps. -/

/-- The environment has the answers that the operation in progress may still need, one byte at a time. -/
structure Supplied (s : State) : Prop where
  inv : SeqInv s
  grain : ByteGrain s
  busy : s.ph ≠ .idle
  tx : txNeed s ≤ s.txAns.length
  rx : rxNeed s ≤ s.rxAns.length

theorem noReset_of_byteGrain {s : State} (h : ByteGrain s) : NoReset s := by
  obtain ⟨hrst, -, -⟩ := h
  unfold NoReset
  rw [hrst]
  nofun

/-- A step whose event needs fewer answers than before, all of them at the ports, leaves the operation supplied. -/
theorem Supplied.next {s s' t : State} {tx rx : Nat} (h : Supplied s) (ht : step s = .next t) (hw : Within s' t tx rx)
    (hg : ByteGrain s') (htx : tx ≤ s'.txAns.length) (hrx : rx ≤ s'.rxAns.length)
    (hlt : tx + rx < txNeed s + rxNeed s) :
    ∃ t, step s = .next t ∧ Supplied t ∧ txNeed t + rxNeed t < txNeed s + rxNeed s := by
  obtain ⟨hrst, htb, hrb⟩ := hg
  obtain ⟨prst, ptb, prb, ptx, prx⟩ := hw.ports
  exact ⟨t, ht,
    { inv := stepKeepsTheInvariant s t h.inv ht
      grain := ⟨prst.trans hrst, ptb.trans htb, prb.trans hrb⟩
      busy := hw.busy
      tx := hw.tx.trans (ptx ▸ htx)
      rx := hw.rx.trans (prx ▸ hrx) },
    Nat.lt_of_le_of_lt (Nat.add_le_add hw.tx hw.rx) hlt⟩

/-- In PH_TX the next TX answer is an event. -/
theorem supplied_step_tx {s : State} (h : Supplied s) (hp : s.ph = .tx) :
    ∃ t, step s = .next t ∧ Supplied t ∧ txNeed t + rxNeed t < txNeed s + rxNeed s := by
  have hn := noReset_of_byteGrain h.grain
  obtain ⟨hrst, htb, hrb⟩ := h.grain
  have hpos : 1 ≤ txNeed s := by have := s.txi.isLt; rw [txNeed_tx hp]; omega
  obtain ⟨a, as, ha⟩ := List.exists_cons_of_length_pos (Nat.lt_of_lt_of_le hpos h.tx)
  have hlen : as.length + 1 = s.txAns.length := (congrArg List.length ha).symm
  have hinv : SeqInv { s with rst := s.rst.tail, txAns := as } := { h.inv with }
  have hevent : ∃ t, step s = .next t ∧
      Within { s with rst := s.rst.tail, txAns := as } t (txNeed s - 1) (rxNeed s) := by
    cases a with
    | done =>
      obtain ⟨t, ht⟩ := txDone_answers hinv hp
      exact ⟨t, (step_txDone hn hp htb ha).trans ht, within_txDone ht⟩
    | fail =>
      obtain ⟨t, ht⟩ := txFail_answers hinv hp
      exact ⟨t, (step_txFail hn hp htb ha).trans ht, within_txFail ht⟩
  obtain ⟨t, ht, hw⟩ := hevent
  have htx := h.tx
  exact h.next ht hw ⟨congrArg List.tail hrst, htb, hrb⟩ (show txNeed s - 1 ≤ as.length by omega) h.rx (by omega)

/-- In a run the next RX answer is an event. -/
theorem supplied_step_run {s : State} (h : Supplied s) (hp : s.ph = .scan ∨ s.ph = .pay) :
    ∃ t, step s = .next t ∧ Supplied t ∧ txNeed t + rxNeed t < txNeed s + rxNeed s := by
  have hn := noReset_of_byteGrain h.grain
  obtain ⟨hrst, htb, hrb⟩ := h.grain
  have hpos : 1 ≤ rxNeed s := by have := rxNeed_pos h.inv hp; omega
  obtain ⟨a, as, ha⟩ := List.exists_cons_of_length_pos (Nat.lt_of_lt_of_le hpos h.rx)
  have hlen : as.length + 1 = s.rxAns.length := (congrArg List.length ha).symm
  have hinv : SeqInv { s with rst := s.rst.tail, rxAns := as } := { h.inv with }
  have hevent : ∃ t, step s = .next t ∧
      Within { s with rst := s.rst.tail, rxAns := as } t (txNeed s) (rxNeed s - 1) := by
    cases a with
    | byte b =>
      obtain ⟨t, ht⟩ := rxByte_answers hinv hp b
      exact ⟨t, (step_rxByte hn hp hrb ha).trans ht, within_rxByte hinv ht⟩
    | fail =>
      obtain ⟨t, ht⟩ := rxFail_answers hinv hp
      exact ⟨t, (step_rxFail hn hp hrb ha).trans ht, within_rxFail hinv ht⟩
  obtain ⟨t, ht, hw⟩ := hevent
  have hrx := h.rx
  exact h.next ht hw ⟨congrArg List.tail hrst, htb, hrb⟩ h.tx (show rxNeed s - 1 ≤ as.length by omega) (by omega)

/-- A supplied operation that is not answered yet goes on. -/
theorem supplied_step {s : State} (h : Supplied s) (hr : s.ph ≠ .rsp) :
    ∃ t, step s = .next t ∧ Supplied t ∧ txNeed t + rxNeed t < txNeed s + rxNeed s := by
  cases hp : s.ph with
  | idle => exact absurd hp h.busy
  | tx => exact supplied_step_tx h hp
  | scan => exact supplied_step_run h (.inl hp)
  | pay => exact supplied_step_run h (.inr hp)
  | rsp => exact absurd hp hr

/-- Running one step and then k. -/
theorem run_succ {s t : State} (h : step s = .next t) (k : Nat) : core.run (k + 1) s = core.run k t := by
  have hc : core.step s = .next t := h
  simp only [Host.Core.run, hc]

/-- A supplied operation is answered within as many steps as it needs answers: what it needs goes down until PH_RSP. -/
theorem supplied_reaches_rsp (s : State) (h : Supplied s) :
    ∃ k t, k ≤ txNeed s + rxNeed s ∧ core.run k s = .next t ∧ t.ph = .rsp := by
  by_cases hr : s.ph = .rsp
  · exact ⟨0, s, Nat.zero_le _, rfl, hr⟩
  · obtain ⟨m, hm, hs, hlt⟩ := supplied_step h hr
    obtain ⟨k, t, hk, hrun, ht⟩ := supplied_reaches_rsp m hs
    exact ⟨k + 1, t, by omega, (run_succ hm k).trans hrun, ht⟩
termination_by txNeed s + rxNeed s

/-- At most nine frames follow the one in progress: two entries, command and exit, and the second bracket's five. -/
theorem framesLeft_le {s : State} (h : SeqInv s) : framesLeft s ≤ 9 := by
  have hs : stageFrames s ≤ 5 := by unfold stageFrames; split <;> omega
  unfold framesLeft
  split
  next hc => have := h.triesPos hc; omega
  all_goals omega

/-- No frame follows READ_MEASUREMENT's run. -/
theorem framesLeft_of_meas {s : State} (h : SeqInv s) (hp : s.ph = .scan ∨ s.ph = .pay) (hm : s.fsmode = .meas) :
    framesLeft s = 0 := by
  simp only [framesLeft, cx_idle_of_meas h hp hm]

theorem txNeed_le {s : State} (h : SeqInv s) : txNeed s ≤ 80 := by
  have := framesLeft_le h
  unfold txNeed
  split <;> omega

/-- What is left of a run, with the runs of the frames that may follow it. -/
theorem run_need_le {s : State} {n : Nat} (h : SeqInv s) (hp : s.ph = .scan ∨ s.ph = .pay)
    (hn : n ≤ s.msa + payloadLen s.fsmode) : (s.msa + 1) * framesLeft s + n ≤ 10 * (s.msa + 1) := by
  cases hm : s.fsmode with
  | meas =>
    rw [hm] at hn
    rw [framesLeft_of_meas h hp hm]
    simp only [payloadLen] at hn
    omega
  | ack =>
    rw [hm] at hn
    simp only [payloadLen] at hn
    have hmul := Nat.mul_le_mul_left (s.msa + 1) (framesLeft_le h)
    omega

theorem rxNeed_le {s : State} (h : SeqInv s) : rxNeed s ≤ 10 * (s.msa + 1) := by
  cases hp : s.ph with
  | idle => simp only [rxNeed, hp]; exact Nat.zero_le _
  | rsp => simp only [rxNeed, hp]; exact Nat.zero_le _
  | tx =>
    have hmul := Nat.mul_le_mul_left (s.msa + 1) (framesLeft_le h)
    rw [rxNeed_tx hp]; omega
  | scan => rw [rxNeed_scan hp]; exact run_need_le h (.inl hp) (by omega)
  | pay => rw [rxNeed_pay hp]; exact run_need_le h (.inr hp) (by omega)

/-- Settles O60: the bounds of the statement cover what any operation in progress may need. -/
theorem everyOperationReachesItsResponse : Obligations.EveryOperationReachesItsResponse := by
  intro s hinv hg hi htx hrx
  have ht := txNeed_le hinv
  have hr := rxNeed_le hinv
  obtain ⟨k, t, hk, hrun, hp⟩ := supplied_reaches_rsp s ⟨hinv, hg, hi, ht.trans htx, hr.trans hrx⟩
  exact ⟨k, t, by omega, hrun, hp⟩

end Sys2Proof.Proofs
end

section
/-! SUPPORT. A whole frame at a port (20_memory.md R61, R73): the instruction that a step fetches from the TX port or from
a received buffer. -/

namespace Sys2Proof.Proofs

open Sys2Proof.Machine Sys2Proof.Claims

/-- A command frame read back with its kind is the instruction it is the frame of (30_encoding.md R91, R102). -/
theorem cmdInstr_cmdFrame {c : Config} {i : Instr} {k : Kind} {t : Template} (h : cmdFrame c i = some (k, t)) :
    cmdInstr k t = i := by
  cases i <;> simp only [cmdFrame, Option.some.injEq, Prod.mk.injEq, reduceCtorEq] at h <;> obtain ⟨rfl, rfl⟩ := h <;>
    simp [cmdInstr, packSel, pack16]

/-- Settles O2: the frame that CT[KIND] holds is the one the step offers to the transport. -/
theorem stepRunsTheFrameOnTheTxPort : Obligations.StepRunsTheFrameOnTheTxPort := by
  intro s i hn hp hb hi
  have hoffered : s.offeredFrame = i := cmdInstr_cmdFrame hi
  rw [step_tx hn hp, ← hoffered]
  simp only [txPhase, hb, if_true]
  rfl

/-- The status byte of a well-formed ACK_OTHER is none of the three that have a row of their own (R95). -/
theorem ackInstr_of_wf {c : Config} {st : Byte} (h : (Instr.ackOther st).wf c = true) : ackInstr st = .ackOther st := by
  simp only [Instr.wf, Bool.and_eq_true, bne_iff_ne] at h
  obtain ⟨⟨hsuccess, hinstruction⟩, hparameter⟩ := h
  simp only [ackInstr, hsuccess, hinstruction, hparameter, if_false]

/-- The bytes of a well-formed received frame are decoded to it (R92, R93). -/
theorem decodeReceived_receivedBytes {c : Config} {i : Instr} {bs : List Byte} (hw : i.wf c = true)
    (h : receivedBytes i = some bs) : decodeReceived c bs = some i := by
  cases i <;> simp only [receivedBytes, Option.some.injEq, reduceCtorEq] at h <;> subst h
  case ackOther st => exact congrArg some (ackInstr_of_wf hw)
  all_goals rfl

/-- Settles O3: the buffer that holds the frame is decoded to it. -/
theorem stepRunsTheReceivedFrame : Obligations.StepRunsTheReceivedFrame := by
  intro s i bs hn hp hw hi hb
  have hdecode := decodeReceived_receivedBytes hw hi
  rw [step_run hn hp]
  cases bs with
  | nil => cases hdecode
  | cons b bs => simp only [rxPhase, hb, hdecode]

end Sys2Proof.Proofs
end

section
/-! SUPPORT. What the events of 10_state.md R41 do not read: the answers pending at the ports, what was recorded before, and
`ret`. Changing these before an event or after it is the same (`Unread`), which relates the two grains of 20_memory.md R61
and gives R75. -/

namespace Sys2Proof.Proofs

open Sys2Proof.Machine Sys2Proof.Claims

/-- A change of what no event reads: of the answers pending at the ports, of the history by older entries
(the history is newest first), and of what a procedure called by itself returned. -/
structure Unread where
  rst : List Bool → List Bool
  txAns : List TxAns → List TxAns
  rxAns : List RxAns → List RxAns
  txBuf : Bool → Bool
  rxBuf : List Byte → List Byte
  older : List Obs
  ret : Ret → Ret

/-- No change. -/
def Unread.none : Unread := { rst := id, txAns := id, rxAns := id, txBuf := id, rxBuf := id, older := [], ret := id }

/-- s with the change made. -/
def Unread.on (f : Unread) (s : State) : State :=
  { s with
    rst := f.rst s.rst, txAns := f.txAns s.txAns, rxAns := f.rxAns s.rxAns, txBuf := f.txBuf s.txBuf
    rxBuf := f.rxBuf s.rxBuf, hist := s.hist ++ f.older, ret := f.ret s.ret }

/-- An outcome with its next state changed. -/
def onNext (g : State → State) (o : Result) : Result := andThen o fun s => .next (g s)

/-- Both branches of a test change alike. -/
theorem ite_on {α : Type} (g : α → α) {p : Prop} [Decidable p] {a b a' b' : α} (ha : a' = g a) (hb : b' = g b) :
    (if p then a' else b') = g (if p then a else b) := by
  rw [ha, hb, apply_ite g]

theorem onNext_andThen (g : State → State) {o : Result} {k k' : State → Result}
    (hk : ∀ s, k' (g s) = onNext g (k s)) : andThen (onNext g o) k' = onNext g (andThen o k) := by
  cases o with
  | next s => exact hk s
  | fault r => rfl
  | refused r => rfl

namespace Unread

variable (f : Unread) (s : State)

@[simp] theorem on_cx : (f.on s).cx = s.cx := rfl
@[simp] theorem on_ph : (f.on s).ph = s.ph := rfl
@[simp] theorem on_fsmode : (f.on s).fsmode = s.fsmode := rfl

/-! The ends of a frame and of a run. -/

theorem finish_on (st : Status) : finish st (f.on s) = f.on (finish st s) :=
  ite_on f.on (ite_on f.on rfl rfl) rfl

theorem stepResult_on (r : Status) : stepResult r (f.on s) = onNext f.on (stepResult r s) := by
  have hfinish : ∀ st u, (.next (finish st (f.on u)) : Result) = onNext f.on (.next (finish st u)) := fun st u =>
    congrArg Host.Outcome.next (finish_on f u st)
  simp only [stepResult, on_cx]
  cases s.cx with
  | enterPending => exact ite_on (onNext f.on) rfl (ite_on (onNext f.on) rfl (hfinish _ { s with cx := .failed }))
  | commandSent => exact ite_on (onNext f.on) (hfinish _ { s with stat := r, cx := .done }) rfl
  | exitPending => exact hfinish s.stat { s with cx := .done }
  | idle | done | failed => rfl

theorem endRun_on (found : Bool) : endRun found (f.on s) = onNext f.on (endRun found s) := by
  simp only [endRun, on_fsmode]
  cases s.fsmode with
  | ack => exact stepResult_on f s _
  | meas => cases found <;> rfl

theorem searchTests_on : searchTests (f.on s) = onNext f.on (searchTests s) :=
  ite_on (onNext f.on) rfl (ite_on (onNext f.on) (endRun_on f s false) rfl)

theorem payloadTest_on : payloadTest (f.on s) = onNext f.on (payloadTest s) :=
  ite_on (onNext f.on) (endRun_on f s true) rfl

theorem byteSent_on : byteSent (f.on s) = onNext f.on (byteSent s) :=
  ite_on (onNext f.on) rfl (ite_on (onNext f.on) (stepResult_on f s .success) rfl)

/-! The events. -/

theorem txDone_on : txDone (f.on s) = onNext f.on (txDone s) := by
  simp only [txDone, on_ph]
  cases s.ph with
  | tx => exact byteSent_on f (s.observe _)
  | idle | scan | pay | rsp => rfl

theorem txFail_on : txFail (f.on s) = onNext f.on (txFail s) := by
  simp only [txFail, on_ph]
  cases s.ph with
  | tx => exact stepResult_on f (s.observe _) .errorTransmission
  | idle | scan | pay | rsp => rfl

theorem rxByte_on (b : Byte) : rxByte b (f.on s) = onNext f.on (rxByte b s) := by
  simp only [rxByte, on_ph]
  cases s.ph with
  | scan => exact searchTests_on f (afterSearchByte b (s.observe _))
  | pay => exact payloadTest_on f ((s.observe _).pushPayload b)
  | idle | tx | rsp => rfl

theorem rxFail_on : rxFail (f.on s) = onNext f.on (rxFail s) := by
  simp only [rxFail, on_ph]
  cases s.ph with
  | scan | pay => exact endRun_on f (s.observe _) false
  | idle | tx | rsp => rfl

theorem rspTaken_on : rspTaken (f.on s) = onNext f.on (rspTaken s) := by
  simp only [rspTaken, on_ph]
  cases s.ph with
  | idle | tx | scan | pay | rsp => rfl

theorem sendRest_on (n : Nat) : sendRest n (f.on s) = onNext f.on (sendRest n s) := by
  induction n generalizing s with
  | zero => rfl
  | succ n ih =>
    rw [sendRest, txDone_on]
    exact onNext_andThen f.on ih

variable {f s} in
/-- An event after the change answers the changed next state. -/
theorem next_on {e : State → Result} (he : ∀ s, e (f.on s) = onNext f.on (e s)) {t : State} (h : e s = .next t) :
    e (f.on s) = .next (f.on t) := by
  rw [he, h]; rfl

end Unread

/-! The two grains of a buffer call (20_memory.md R61). -/

/-- The change that empties the reset input and takes away the buffer calls. -/
def noBufferCalls : Unread := { Unread.none with rst := fun _ => [], txBuf := fun _ => false, rxBuf := fun _ => [] }

theorem noBufferCalls_on (s : State) : noBufferCalls.on s = { s with rst := [], txBuf := false, rxBuf := [] } := by
  simp [noBufferCalls, Unread.none, Unread.on]

/-- An event that does not look at the ports leaves them at the byte grain. -/
theorem byteGrain_next {e : State → Result} (he : ∀ (f : Unread) s, e (f.on s) = onNext f.on (e s)) {s t : State}
    (hg : ByteGrain s) (h : e s = .next t) : ByteGrain t := by
  obtain ⟨hrst, htb, hrb⟩ := hg
  have hs : noBufferCalls.on s = s := by rw [noBufferCalls_on, ← hrst, ← htb, ← hrb]
  have ht := Unread.next_on (he noBufferCalls) h
  rw [hs, h, noBufferCalls_on] at ht
  rw [Host.Outcome.next.inj ht]
  exact ⟨rfl, rfl, rfl⟩

/-- The change that puts answers in front of the transport's TX answers. -/
def withTx (as : List TxAns) : Unread := { Unread.none with txAns := (as ++ ·) }

theorem withTx_on (as : List TxAns) (s : State) : (withTx as).on s = { s with txAns := as ++ s.txAns } := by
  simp [withTx, Unread.none, Unread.on]

/-- The change that puts answers in front of the transport's RX answers. -/
def withRx (as : List RxAns) : Unread := { Unread.none with rxAns := (as ++ ·) }

theorem withRx_on (as : List RxAns) (s : State) : (withRx as).on s = { s with rxAns := as ++ s.rxAns } := by
  simp [withRx, Unread.none, Unread.on]

/-- n bytes of a frame taken as one buffer call are n steps whose answer is `TxDone`. -/
theorem run_of_sendRest {n : Nat} {s t : State} (hg : ByteGrain s) (h : sendRest n s = .next t) :
    core.run n ((withTx (taken n)).on s) = .next t := by
  induction n generalizing s with
  | zero => cases h; rw [withTx_on]; rfl
  | succ n ih =>
    obtain ⟨m, hm, h⟩ := andThen_cases (k := sendRest n) h
    obtain ⟨hp, -⟩ := txDone_cases hm
    obtain ⟨hrst, htb, hrb⟩ := hg
    have hstep : step ((withTx (taken (n + 1))).on s) = txDone ((withTx (taken n)).on s) := by
      rw [step_txDone (s := (withTx (taken (n + 1))).on s) (noReset_of_byteGrain ⟨hrst, htb, hrb⟩) hp htb rfl,
        withTx_on, withTx_on]
      simp only [hrst]
      rfl
    rw [run_succ (hstep.trans (Unread.next_on (Unread.txDone_on _) hm))]
    exact ih (byteGrain_next Unread.txDone_on ⟨hrst, htb, hrb⟩ hm) h

/-- A buffer delivered at once is as many steps as bytes of it the engine asks for; the others are in front of the stream
either way. -/
theorem run_of_deliver {bs : List Byte} {s t : State} (hg : ByteGrain s) (h : deliver bs s = .next t) :
    ∃ n, n ≤ bs.length ∧ core.run n ((withRx (answers bs)).on s) = .next t := by
  induction bs generalizing s with
  | nil => cases h; exact ⟨0, Nat.le_refl 0, by rw [withRx_on]; rfl⟩
  | cons b bs ih =>
    by_cases hw : s.rxWant = true
    · rw [deliver, if_pos hw] at h
      obtain ⟨m, hm, h⟩ := andThen_cases h
      have hp : s.ph = .scan ∨ s.ph = .pay := (rxByte_cases hm).imp And.left And.left
      obtain ⟨n, hn, hrun⟩ := ih (byteGrain_next (Unread.rxByte_on · · b) hg hm) h
      obtain ⟨hrst, htb, hrb⟩ := hg
      have hstep : step ((withRx (answers (b :: bs))).on s) = rxByte b ((withRx (answers bs)).on s) := by
        rw [step_rxByte (s := (withRx (answers (b :: bs))).on s) (noReset_of_byteGrain ⟨hrst, htb, hrb⟩) hp hrb rfl,
          withRx_on, withRx_on]
        simp only [hrst]
        rfl
      refine ⟨n + 1, Nat.succ_le_succ hn, ?_⟩
      rw [run_succ (hstep.trans (Unread.next_on (Unread.rxByte_on _ · b) hm))]
      exact hrun
    · rw [deliver_unwanted (by simpa using hw)] at h
      exact ⟨0, Nat.zero_le _, by rw [withRx_on]; exact h⟩

/-- Settles O27: by induction on the bytes left of the frame, and on the bytes delivered. -/
theorem bufferCallsAreByteTransactions : Obligations.BufferCallsAreByteTransactions := by
  refine ⟨fun s t i k f hg hi h => ?_, fun s t i bs hg hi h => ?_⟩
  · obtain ⟨bytes, he⟩ := exec_cmdFrame hi s
    obtain ⟨-, -, -, hsend⟩ := takeFrame_cases (he.symm.trans h)
    rw [← withTx_on]
    exact run_of_sendRest hg hsend
  · rw [exec_received hi] at h
    simp only [← withRx_on]
    exact run_of_deliver hg h

end Sys2Proof.Proofs
end

section
/-! SUPPORT. A step does not read the history (20_memory.md R75): an older history before a step is an older history after
it. -/

namespace Sys2Proof.Proofs

open Sys2Proof.Machine Sys2Proof.Claims

/-! Requests. -/

/-- A request reads neither the ports nor the history (10_state.md R41). -/
theorem request_on (f : Unread) (s : State) {i : Instr} {op : BitVec 4} {arg : Half} (hi : reqOp i = some (op, arg)) :
    exec i (f.on s) = onNext f.on (exec i s) := by
  have accepted : ∀ k : State → State, (∀ s, exec i s = whenIdle s k) → k (f.on s) = f.on (k s) →
      exec i (f.on s) = onNext f.on (exec i s) := fun k he hk => by
    rw [he, he]
    exact ite_on (onNext f.on) (congrArg Host.Outcome.next hk) rfl
  cases i <;> simp only [reqOp, reduceCtorEq] at hi
  case readMeasurement | getBudget | setBudget => exact accepted _ (fun _ => rfl) rfl
  case reservedOp15 => rfl
  all_goals exact accepted _ (fun _ => rfl) (ite_on f.on rfl rfl)

/-! The phases. -/

/-- The change that makes the history older and puts r in `ret`. -/
def remembering (older : List Obs) (r : Ret) : Unread := { Unread.none with older := older, ret := fun _ => r }

section

variable (older : List Obs) (r : Ret) (s : State)

theorem deliver_remembering (bs : List Byte) :
    deliver bs ((remembering older r).on s) = onNext (remembering older r).on (deliver bs s) := by
  induction bs generalizing s with
  | nil => rfl
  | cons b bs ih =>
    have hrx : andThen (rxByte b ((remembering older r).on s)) (deliver bs) =
        onNext (remembering older r).on (andThen (rxByte b s) (deliver bs)) := by
      rw [Unread.rxByte_on]
      exact onNext_andThen _ ih
    exact ite_on (onNext _) hrx rfl

theorem idlePhase_remembering :
    idlePhase ((remembering older r).on s) = onNext (remembering older r).on (idlePhase s) := by
  have hreqs : ((remembering older r).on s).reqs = s.reqs := rfl
  simp only [idlePhase, hreqs]
  cases s.reqs with
  | nil => rfl
  | cons w rest => exact request_on (remembering older r) { s with reqs := rest } (reqOp_decodeReqWord w)

/-- A transport that takes the rest of the frame takes its bytes from TXI on (20_memory.md R61). -/
theorem txPhase_buffer {s : State} (hp : s.ph = .tx) (hb : s.txBuf = true) :
    txPhase s = sendRest (8 - s.txi.val) { s with txBuf := false } := by
  rw [txPhase, if_pos hb]
  exact exec_offeredFrame (s := { s with txBuf := false }) hp

theorem txPhase_remembering (hp : s.ph = .tx) :
    txPhase ((remembering older r).on s) = onNext (remembering older r).on (txPhase s) := by
  cases hb : s.txBuf with
  | true =>
    rw [txPhase_buffer hp hb, txPhase_buffer (s := (remembering older r).on s) hp hb]
    exact Unread.sendRest_on (remembering older r) { s with txBuf := false } _
  | false =>
    have htb : ((remembering older r).on s).txBuf = false := hb
    have has : ((remembering older r).on s).txAns = s.txAns := rfl
    simp only [txPhase, hb, htb, has, Bool.false_eq_true, if_false]
    cases s.txAns with
    | nil => rfl
    | cons a as =>
      cases a with
      | done => exact Unread.txDone_on (remembering older r) { s with txAns := as, txBuf := false }
      | fail => exact Unread.txFail_on (remembering older r) { s with txAns := as, txBuf := false }

/-- A buffer handed over is delivered, whether it is decoded to a frame or not (20_memory.md R61). -/
theorem rxPhase_buffer {s : State} {b : Byte} {bs : List Byte} (h : s.rxBuf = b :: bs) :
    rxPhase s = deliver (b :: bs) { s with rxBuf := [] } := by
  simp only [rxPhase, h]
  split
  next hd => exact exec_received (decodeReceived_bytes hd) _
  next => rfl

theorem rxPhase_remembering :
    rxPhase ((remembering older r).on s) = onNext (remembering older r).on (rxPhase s) := by
  cases hb : s.rxBuf with
  | cons b bs =>
    rw [rxPhase_buffer hb, rxPhase_buffer (s := (remembering older r).on s) hb]
    exact deliver_remembering older r { s with rxBuf := [] } (b :: bs)
  | nil =>
    have hrb : ((remembering older r).on s).rxBuf = [] := hb
    have has : ((remembering older r).on s).rxAns = s.rxAns := rfl
    simp only [rxPhase, hb, hrb, has]
    cases s.rxAns with
    | nil => rfl
    | cons a as =>
      cases a with
      | byte b => exact Unread.rxByte_on (remembering older r) { s with rxAns := as, rxBuf := [] } b
      | fail => exact Unread.rxFail_on (remembering older r) { s with rxAns := as, rxBuf := [] }

theorem rspPhase_remembering :
    rspPhase ((remembering older r).on s) = onNext (remembering older r).on (rspPhase s) := by
  have ht : ((remembering older r).on s).takes = s.takes := rfl
  simp only [rspPhase, ht]
  cases s.takes with
  | zero => rfl
  | succ n => exact Unread.rspTaken_on (remembering older r) { s with takes := n }

theorem phaseStep_remembering :
    phaseStep ((remembering older r).on s) = onNext (remembering older r).on (phaseStep s) := by
  simp only [phaseStep, Unread.on_ph]
  cases hp : s.ph with
  | idle => exact idlePhase_remembering older r s
  | tx => exact txPhase_remembering older r s hp
  | scan | pay => exact rxPhase_remembering older r s
  | rsp => exact rspPhase_remembering older r s

/-- A step from a state with an older history is the step, the older history kept under it. -/
theorem step_remembering : step ((remembering older r).on s) = onNext (remembering older r).on (step s) := by
  obtain hn | ⟨rest, hr⟩ := noReset_or s
  · rw [step_of_noReset hn, step_of_noReset (s := (remembering older r).on s) hn]
    exact phaseStep_remembering older r { s with rst := s.rst.tail }
  · rw [step_of_reset hr, step_of_reset (s := (remembering older r).on s) hr]
    rfl

theorem forgetHistory_remembering (o : Result) :
    forgetHistory (onNext (remembering older r).on o) = forgetHistory o := by
  cases o with
  | next t => rfl
  | fault f => rfl
  | refused f => rfl

/-- The outcome but for the history and `ret` is that of the step from an empty history. -/
theorem forgetHistory_step :
    forgetHistory (step { s with hist := older, ret := r }) = forgetHistory (step { s with hist := [], ret := .none }) :=
  calc forgetHistory (step { s with hist := older, ret := r })
    _ = forgetHistory (step ((remembering older r).on { s with hist := [], ret := .none })) := rfl
    _ = forgetHistory (step { s with hist := [], ret := .none }) := by
      rw [step_remembering, forgetHistory_remembering]

end

/-- Settles O57: both steps are the step from an empty history, with the history put back under it. -/
theorem theEngineReadsNoHistory : Obligations.TheEngineReadsNoHistory := fun s h r =>
  (forgetHistory_step h r s).trans (forgetHistory_step s.hist s.ret s).symm

end Sys2Proof.Proofs
end

section
/-! SUPPORT. A setter overwrites every byte of its template that any setter writes (20_memory.md R74), so that what it
leaves there does not depend on what was there. -/

namespace Sys2Proof.Proofs

open Sys2Proof.Machine Sys2Proof.Claims

/-- The templates of kind k in s and s' agree outside the offsets `free`. -/
def AgreeOutside (free : List (Fin 8)) (k : Kind) (s s' : State) : Prop :=
  ∀ j, j ∉ free → s.ctByte k j = s'.ctByte k j

/-- With the same parameters a template can differ only where its setter writes (10_state.md R25). -/
theorem agreeOutside_writes {s s' : State} (h : SeqInv s) (h' : SeqInv s') (hc : s.cfg = s'.cfg) (k : Kind) :
    AgreeOutside k.writes k s s' := fun j hj => by
  rw [h.ctFixed k j hj, h'.ctFixed k j hj, hc]

/-- Writing the same byte at an offset in both states makes them agree there. -/
theorem AgreeOutside.setCtByte {i : Fin 8} {free : List (Fin 8)} {k : Kind} {s s' : State}
    (h : AgreeOutside (i :: free) k s s') (b : Byte) : AgreeOutside free k (s.setCtByte k i b) (s'.setCtByte k i b) := by
  intro j hj
  rw [ctByte_setCtByte, ctByte_setCtByte]
  by_cases hi : i = j
  · rw [if_pos ⟨rfl, hi⟩, if_pos ⟨rfl, hi⟩]
  · rw [if_neg fun hk => hi hk.2, if_neg fun hk => hi hk.2]
    exact h j fun hm => (List.mem_cons.mp hm).elim (fun hji => hi hji.symm) hj

theorem AgreeOutside.template {k : Kind} {s s' : State} (h : AgreeOutside [] k s s') : s.template k = s'.template k :=
  Vector.ext fun j hj => h ⟨j, hj⟩ List.not_mem_nil

/-- The write determines the template of kind k: it writes every byte in which states with the same parameters may differ. -/
def Overwrites (k : Kind) (write : State → State) : Prop :=
  ∀ s s', s.cfg = s'.cfg → AgreeOutside k.writes k s s' → AgreeOutside [] k (write s) (write s')

/-- The write of an operation with a fixed template (42_setters.md R205, R206). -/
theorem overwrites_id {k : Kind} (hk : k.writes = []) : Overwrites k id := fun _ _ _ h => hk ▸ h

/-- `PackSel` (30_encoding.md R102). -/
theorem overwrites_packSel {k : Kind} (hk : k.writes = [6]) (arg : Half) : Overwrites k fun s => s.packSel k arg :=
  fun s s' _ h => AgreeOutside.setCtByte (s := s) (s' := s') (hk ▸ h) (loByte arg)

/-- `Pack16` (R102). -/
theorem overwrites_pack16 {k : Kind} (hk : k.writes = [4, 5]) (arg : Half) : Overwrites k fun s => s.pack16 k arg :=
  fun s s' _ h => (AgreeOutside.setCtByte (s := s) (s' := s') (hk ▸ h) (loByte arg)).setCtByte (hiByte arg)

/-- SET_RANGE_LIMIT: `Pack16` and the flag (42_setters.md R200). -/
theorem overwrites_range (arg : Half) : Overwrites .range fun s => (s.pack16 .range arg).packFlag arg :=
  fun s s' hc h => by
    have h6 := (AgreeOutside.setCtByte (s := s) (s' := s') h (loByte arg)).setCtByte (hiByte arg)
    have hflag := h6.setCtByte (s.cfg.rangeFlag arg)
    show AgreeOutside [] .range _ ((s'.pack16 .range arg).setCtByte .range 6 (s'.cfg.rangeFlag arg))
    rw [← hc]
    exact hflag

/-- Stage 0 of SET_DISTANCE_MODE (R198). -/
theorem overwrites_patternStage : Overwrites .pattern fun s =>
    { s with stage := .pattern }.setCtByte .pattern 6 s.cfg.patternFix :=
  fun s s' hc h => by
    have hfix := AgreeOutside.setCtByte (s := { s with stage := .pattern }) (s' := { s' with stage := .pattern }) h
      s.cfg.patternFix
    show AgreeOutside [] .pattern _ ({ s' with stage := .pattern }.setCtByte .pattern 6 s'.cfg.patternFix)
    rw [← hc]
    exact hfix

/-- A request that runs a bracket is a command-issuing operation with a valid argument, whose write determines the
template of that bracket. -/
theorem exec_of_brackets {i : Instr} {k : Kind} {ks : List Kind} (h : brackets i = k :: ks) :
    ∃ op arg valid write, (∀ s, exec i s = commandOp op arg valid write k s) ∧ valid = true ∧ Overwrites k write := by
  cases i <;> simp only [brackets, ite_eq_iff, reduceCtorEq, and_false, or_false, List.cons.injEq] at h
  case setOutputFormat arg | setDistanceUnit arg | setDetectionPattern arg | setBaudRate arg | setTriggerSource arg =>
    obtain ⟨rfl, -⟩ := h
    exact ⟨_, _, _, _, fun _ => rfl, rfl, overwrites_packSel rfl arg⟩
  case setOutputPeriod arg | setStrengthLow arg | setStrengthHigh arg =>
    obtain ⟨hv, rfl, -⟩ := h
    exact ⟨_, _, _, _, fun _ => rfl, by simp [validPeriod, validStrLo, validStrHi, hv], overwrites_pack16 rfl arg⟩
  case setRangeLimit arg =>
    obtain ⟨hv, rfl, -⟩ := h
    exact ⟨_, _, _, _, fun _ => rfl, by simpa [validRange] using hv, overwrites_range arg⟩
  case setDistanceMode arg =>
    obtain ⟨rfl, -⟩ := h
    exact ⟨_, _, _, _, fun _ => rfl, rfl, overwrites_patternStage⟩
  case triggerMeasurement arg | resetDevice arg =>
    obtain ⟨rfl, -⟩ := h
    exact ⟨_, _, _, _, fun _ => rfl, rfl, overwrites_id rfl⟩

/-- The template that an accepted command-issuing operation leaves is what its write leaves. -/
theorem commandOp_template {op : BitVec 4} {arg : Half} {write : State → State} {k : Kind} {s t : State}
    (h : commandOp op arg true write k s = .next t) (hp : s.ph = .idle) :
    t.template k = (write (acceptReq op arg s)).template k := by
  obtain ⟨hb, -⟩ | ⟨-, -, rfl⟩ | ⟨-, hv, -⟩ := commandOp_cases h
  · exact absurd hp hb
  · rfl
  · cases hv

/-- Stage 1 of SET_DISTANCE_MODE writes byte 6 of the mode template (R199). -/
theorem startModeStage_template {s s' : State} (h : AgreeOutside Kind.mode.writes .mode s s') (ha : s.arg = s'.arg) :
    (startModeStage s).template .mode = (startModeStage s').template .mode := by
  have hw := AgreeOutside.setCtByte (s := { s with stage := .mode }) (s' := { s' with stage := .mode }) h (loByte s.arg)
  calc (startModeStage s).template .mode
    _ = ({ s with stage := .mode }.setCtByte .mode 6 (loByte s.arg)).template .mode := rfl
    _ = ({ s' with stage := .mode }.setCtByte .mode 6 (loByte s.arg)).template .mode := hw.template
    _ = (startModeStage s').template .mode := by rw [ha]; rfl

/-- `Finish(Success)` at the end of stage 0 starts stage 1 (41_command_fsm.md R173). -/
theorem finish_success_patternStage {s : State} (hop : s.op = 6#4) (hs : s.stage = .pattern) :
    finish .success s = startModeStage s := by
  rw [finish, if_pos ⟨hop, hs⟩, if_pos rfl]

/-- Settles O54: the bytes outside a setter's offsets are CT_INIT's, and the setter writes the others. -/
theorem setterFramesDependOnTheArgumentOnly : Obligations.SetterFramesDependOnTheArgumentOnly := by
  refine ⟨fun s s' t t' i k ks hinv hinv' hc hp hp' hb h h' => ?_, fun s s' hinv hinv' hc ha hop hop' hs hs' => ?_⟩
  · obtain ⟨op, arg, _, write, he, rfl, hw⟩ := exec_of_brackets hb
    rw [he] at h h'
    rw [commandOp_template h hp, commandOp_template h' hp']
    exact (hw (acceptReq op arg s) (acceptReq op arg s') hc (agreeOutside_writes hinv hinv' hc k)).template
  · rw [finish_success_patternStage hop hs, finish_success_patternStage hop' hs']
    exact startModeStage_template (agreeOutside_writes hinv hinv' hc .mode) ha

end Sys2Proof.Proofs
end

section
/-! SUPPORT. The encoder, format by format, and the request words of 30_encoding.md R103: operation code and argument
written and read back. -/

namespace Sys2Proof.Proofs

open Sys2Proof.Machine Sys2Proof.Claims

/-! Which encoding an instruction has. -/

theorem formatOf_req20_iff {i : Instr} : formatOf i = some .req20 ↔ ∃ op arg, reqOp i = some (op, arg) := by
  cases i <;> simp [formatOf, reqOp]

theorem formatOf_cmd8_iff (c : Config) {i : Instr} : formatOf i = some .cmd8 ↔ ∃ k t, cmdFrame c i = some (k, t) := by
  cases i <;> simp [formatOf, cmdFrame]

theorem encode_request (c : Config) {i : Instr} {op : BitVec 4} {arg : Half} (h : reqOp i = some (op, arg)) :
    encode c i = reqBytes op arg := by
  simp only [encode, h]

theorem encode_command {c : Config} {i : Instr} {k : Kind} {t : Template} (h : cmdFrame c i = some (k, t)) :
    encode c i = t.toList := by
  cases i <;> simp only [cmdFrame, Option.some.injEq, Prod.mk.injEq, reduceCtorEq] at h <;> obtain ⟨-, rfl⟩ := h <;> rfl

theorem encode_received (c : Config) {i : Instr} {bs : List Byte} (h : receivedBytes i = some bs) : encode c i = bs := by
  cases i <;> simp only [receivedBytes, Option.some.injEq, reduceCtorEq] at h <;> exact h

/-! Request words (R103, R104). -/

theorem extract_op_reqWord (op : BitVec 4) (arg : Half) : (reqWord op arg).extractLsb' 16 4 = op :=
  BitVec.extractLsb'_append_eq_left

theorem extract_arg_reqWord (op : BitVec 4) (arg : Half) : (reqWord op arg).extractLsb' 0 16 = arg :=
  BitVec.extractLsb'_append_eq_right

/-- The word of a request's operation code and argument is decoded to that request. -/
theorem decodeReqWord_reqWord {i : Instr} {op : BitVec 4} {arg : Half} (h : reqOp i = some (op, arg)) :
    decodeReqWord (reqWord op arg) = i := by
  rw [decodeReqWord, extract_op_reqWord, extract_arg_reqWord]
  cases i <;> simp only [reqOp, Option.some.injEq, Prod.mk.injEq, reduceCtorEq] at h <;> obtain ⟨rfl, rfl⟩ := h <;> rfl

theorem reqOp_decodeReqWord_reqWord (op : BitVec 4) (arg : Half) :
    reqOp (decodeReqWord (reqWord op arg)) = some (op, arg) := by
  rw [reqOp_decodeReqWord, extract_op_reqWord, extract_arg_reqWord]

theorem word_eq_reqWord (op : BitVec 4) (arg : Half) : word op.toNat arg = reqWord op arg := by
  rw [word_of_fields (reqWord op arg), extract_op_reqWord, extract_arg_reqWord]

/-- The third byte of a request word holds the operation code in its low half, the high half being 0 (log 19). -/
theorem setWidth_low_half {b : Byte} (h : b.extractLsb' 4 4 = 0#4) : (b.extractLsb' 0 4).setWidth 8 = b := by
  have hhigh := congrArg BitVec.toNat h
  apply BitVec.eq_of_toNat_eq
  simp only [BitVec.toNat_setWidth, BitVec.extractLsb'_toNat, BitVec.toNat_ofNat, Nat.shiftRight_eq_div_pow] at hhigh ⊢
  omega

theorem low_half_setWidth (op : BitVec 4) :
    (op.setWidth 8).extractLsb' 4 4 = 0#4 ∧ (op.setWidth 8).extractLsb' 0 4 = op := by
  revert op; decide

theorem decode_reqBytes (c : Config) (op : BitVec 4) (arg : Half) :
    decode c .req20 (reqBytes op arg) = .ok (decodeReqWord (reqWord op arg)) := by
  obtain ⟨hhigh, hlow⟩ := low_half_setWidth op
  have hbytes : hiByte arg ++ loByte arg = arg := half_loByte_hiByte arg
  simp only [reqBytes, decode, hhigh, hlow, hbytes, if_true, reqWord]

/-- Bytes that decode to a request are the bytes of its operation code and its argument: the four bits beyond the word are
0 (R103). -/
theorem decode_req20_cases {c : Config} {bs : List Byte} {i : Instr} (h : decode c .req20 bs = .ok i) :
    ∃ op arg, bs = reqBytes op arg ∧ i = decodeReqWord (reqWord op arg) := by
  unfold decode at h
  split at h <;> try contradiction
  next b0 b1 b2 _ =>
    split at h <;> cases h
    next hhigh =>
      refine ⟨b2.extractLsb' 0 4, half b0 b1, ?_, rfl⟩
      rw [reqBytes, loByte_half, hiByte_half, setWidth_low_half hhigh]

/-- Settles O21: the pending word of operation code 15 is decoded to the reserved row (R107). -/
theorem reservedOperationIsRefused : Obligations.ReservedOperationIsRefused := by
  refine fun s arg => ⟨rfl, fun rest hn hp hr => ?_⟩
  have hdecode : decodeReqWord (word 15 arg) = .reservedOp15 arg :=
    (congrArg decodeReqWord (word_eq_reqWord 15#4 arg)).trans (decodeReqWord_reqWord rfl)
  rw [stepRunsThePendingRequest s _ rest hn hp hr, hdecode]
  rfl

end Sys2Proof.Proofs
end

section
/-! SUPPORT. Command frames (30_encoding.md R91, R100 to R102): which bytes of a frame its template fixes, and that the
frame of an instruction and the instruction of a frame belong to each other, the kind being given. -/

namespace Sys2Proof.Proofs

open Sys2Proof.Machine Sys2Proof.Claims

/-- The template t is t0 but for the offsets `free`. -/
def EqOutside (free : List (Fin 8)) (t t0 : Template) : Prop := ∀ j, j ∉ free → t[j] = t0[j]

theorem getElem_setTemplate (t : Template) (i j : Fin 8) (b : Byte) : (t.set i b)[j] = if i = j then b else t[j] := by
  simp [Vector.getElem_set, Fin.ext_iff]

/-- A write at an offset that is left free. -/
theorem EqOutside.set {free : List (Fin 8)} {t t0 : Template} {i : Fin 8} (h : EqOutside free t t0) (hi : i ∈ free)
    (b : Byte) : EqOutside free (t.set i b) t0 := by
  intro j hj
  have hij : i ≠ j := fun he => hj (he ▸ hi)
  rw [getElem_setTemplate, if_neg hij]
  exact h j hj

/-- Writing t's own byte at a free offset of t0 makes the two agree there. -/
theorem EqOutside.fill {free : List (Fin 8)} {t t0 : Template} {i : Fin 8} (h : EqOutside (i :: free) t t0) {b : Byte}
    (hb : b = t[i]) : EqOutside free t (t0.set i b) := by
  intro j hj
  rw [getElem_setTemplate]
  split
  next hij => rw [hb, hij]
  next hij => exact h j fun hm => (List.mem_cons.mp hm).elim (fun hji => hij hji.symm) hj

theorem EqOutside.eq {t t0 : Template} (h : EqOutside [] t t0) : t0 = t :=
  Vector.ext fun j hj => (h ⟨j, hj⟩ List.not_mem_nil).symm

theorem frameFits_iff {c : Config} {t : Template} {k : Kind} :
    c.frameFits t k = true ↔ EqOutside k.writes t (c.ctInit k) := by
  have hall : ∀ j, j ∈ byteIndexes := by decide
  simp [Config.frameFits, EqOutside, hall, or_iff_not_imp_left]

/-- The frame of an instruction fits the template of its kind. -/
theorem frameFits_cmdFrame {c : Config} {i : Instr} {k : Kind} {t : Template} (h : cmdFrame c i = some (k, t)) :
    c.frameFits t k = true := by
  have fixed : ∀ k, EqOutside k.writes (c.ctInit k) (c.ctInit k) := fun _ _ _ => rfl
  rw [frameFits_iff]
  cases i <;> simp only [cmdFrame, Option.some.injEq, Prod.mk.injEq, reduceCtorEq] at h <;> obtain ⟨rfl, rfl⟩ := h
  case cmdEnter | cmdExit | cmdTrigger | cmdReset => exact fixed _
  case cmdFormat sel | cmdUnit sel | cmdPattern sel | cmdMode sel | cmdBaud sel | cmdTrigSrc sel =>
    exact (fixed _).set (i := 6) (by decide) sel
  case cmdPeriod v | cmdStrLo v | cmdStrHi v =>
    exact ((fixed _).set (i := 4) (by decide) (loByte v)).set (i := 5) (by decide) (hiByte v)
  case cmdRange v flag =>
    have h4 := (fixed .range).set (i := 4) (by decide) (loByte v)
    exact (h4.set (i := 5) (by decide) (hiByte v)).set (i := 6) (by decide) flag

/-- `PackSel` of a frame's own byte 6 (R102). -/
theorem packSel_eq {free : List (Fin 8)} {t t0 : Template} (h : EqOutside (6 :: free) t t0) :
    EqOutside free t (packSel t0 t[6]) := h.fill rfl

/-- `Pack16` of a frame's own bytes 4 and 5 (R102). -/
theorem pack16_eq {free : List (Fin 8)} {t t0 : Template} (h : EqOutside (4 :: 5 :: free) t t0) :
    EqOutside free t (pack16 t0 (half t[4] t[5])) := (h.fill (loByte_half ..)).fill (hiByte_half ..)

/-- A frame that fits the template of a kind is the frame of the instruction that it is with that kind. -/
theorem cmdFrame_cmdInstr {c : Config} {t : Template} {k : Kind} (h : c.frameFits t k = true) :
    cmdFrame c (cmdInstr k t) = some (k, t) := by
  rw [frameFits_iff] at h
  cases k <;> refine congrArg (fun t => some (_, t)) (EqOutside.eq ?_)
  case enter | exit | trigger | reset => exact h
  case format | unit | pattern | mode | baud | trigSrc => exact packSel_eq h
  case period | strLo | strHi => exact pack16_eq h
  case range => exact packSel_eq (pack16_eq h)

/-! The header (R91). -/

/-- No setter writes bytes 0 to 3. -/
theorem not_mem_writes_of_header (k : Kind) {j : Fin 8} (hj : j.val < 4) : j ∉ k.writes := by
  revert j; cases k <;> decide

theorem ctInit_header (c : Config) (k : Kind) {j : Fin 8} (hj : j.val < 4) :
    [0x42#8, 0x57#8, 0x02#8, 0x00#8][j.val]? = some (c.ctInit k)[j] := by
  obtain ⟨n, hn⟩ := j
  have h4 : n < 4 := hj
  interval_cases n <;> rfl

theorem template_bytes (t : Template) : ∃ b0 b1 b2 b3 b4 b5 b6 b7, t = #v[b0, b1, b2, b3, b4, b5, b6, b7] := by
  refine ⟨t[0], t[1], t[2], t[3], t[4], t[5], t[6], t[7], Vector.ext fun j hj => ?_⟩
  interval_cases j <;> rfl

/-- A frame that fits some template has the header, so that the decoder looks for its kind. -/
theorem decode_toList {c : Config} {t : Template} {k : Kind} (h : c.frameFits t k = true) :
    decode c .cmd8 t.toList = decodeCmd c t := by
  have hheader : ∀ j : Fin 8, j.val < 4 → t[j] = (c.ctInit k)[j] := fun j hj =>
    frameFits_iff.mp h j (not_mem_writes_of_header k hj)
  have h0 := hheader 0 (by decide)
  have h1 := hheader 1 (by decide)
  have h2 := hheader 2 (by decide)
  have h3 := hheader 3 (by decide)
  obtain ⟨b0, b1, b2, b3, b4, b5, b6, b7, rfl⟩ := template_bytes t
  obtain rfl : b0 = 0x42#8 := h0
  obtain rfl : b1 = 0x57#8 := h1
  obtain rfl : b2 = 0x02#8 := h2
  obtain rfl : b3 = 0x00#8 := h3
  rfl

/-- Bytes that decode to a command frame are a frame that fits the kind of what it is decoded to. -/
theorem decode_cmd8_cases {c : Config} {bs : List Byte} {i : Instr} (h : decode c .cmd8 bs = .ok i) :
    ∃ (t : Template) (k : Kind), bs = t.toList ∧ c.frameFits t k = true ∧ i = cmdInstr k t := by
  unfold decode at h
  split at h <;> try contradiction
  split at h
  · unfold decodeCmd at h
    split at h
    · cases h
    next k hk =>
      split at h <;> cases h
      exact ⟨_, k, rfl, List.find?_some hk, rfl⟩
  · cases h

/-- Separate templates: a frame fits at most one kind (R101). -/
theorem kind_of_frameFits {c : Config} (hc : c.templatesSeparate = true) {t : Template} {k k' : Kind}
    (h : c.frameFits t k = true) (h' : c.frameFits t k' = true) : k = k' := by
  simp only [Config.templatesSeparate, List.all_eq_true, Bool.or_eq_true, beq_iff_eq, List.any_eq_true,
    Bool.and_eq_true, Bool.not_eq_true', bne_iff_ne, List.contains_eq_mem, decide_eq_false_iff_not] at hc
  obtain hk | ⟨j, -, ⟨hj, hj'⟩, hne⟩ := hc k k.mem_all k' k'.mem_all
  · exact hk
  · exact absurd ((frameFits_iff.mp h j hj).symm.trans (frameFits_iff.mp h' j hj')) hne

theorem decodeCmd_of_fits {c : Config} (hc : c.templatesSeparate = true) {t : Template} {k : Kind}
    (h : c.frameFits t k = true) (hw : (cmdInstr k t).wf c = true) : decodeCmd c t = .ok (cmdInstr k t) := by
  unfold decodeCmd
  split
  next hnone => simpa [h] using List.find?_eq_none.mp hnone k k.mem_all
  next k' hk' =>
    rw [kind_of_frameFits hc (List.find?_some hk') h, if_pos hw]

end Sys2Proof.Proofs
end

section
/-! SUPPORT. Encoding and decoding are inverse to each other, format by format (30_encoding.md R90 to R104). -/

namespace Sys2Proof.Proofs

open Sys2Proof.Machine Sys2Proof.Claims

/-! Received frames (R92, R93). -/

/-- The number of bytes of a format (R90). -/
def formatLength : Format → Nat
  | .req20 => 3
  | .cmd8 => 8
  | .ack4 => 4
  | .meas9 => 9

theorem decode_length {c : Config} {f : Format} {bs : List Byte} {i : Instr} (h : decode c f bs = .ok i) :
    bs.length = formatLength f := by
  unfold decode at h
  split at h <;> try contradiction
  all_goals rfl

/-- The format of a received frame is told by its length. -/
theorem formatOf_received {i : Instr} {bs : List Byte} (h : receivedBytes i = some bs) :
    (formatOf i = some .ack4 ∧ bs.length = 4) ∨ (formatOf i = some .meas9 ∧ bs.length = 9) := by
  cases i <;> simp only [receivedBytes, Option.some.injEq, reduceCtorEq] at h <;> subst h
  case measFrame => exact .inr ⟨rfl, rfl⟩
  all_goals exact .inl ⟨rfl, rfl⟩

/-- Settles O10: in each format the bytes that decode are those of the fields read from them. -/
theorem encodeOfDecode : Obligations.EncodeOfDecode := by
  intro c f bs i h
  have hlen := decode_length h
  cases f with
  | req20 =>
    obtain ⟨op, arg, rfl, rfl⟩ := decode_req20_cases h
    have hreq := reqOp_decodeReqWord_reqWord op arg
    exact ⟨encode_request c hreq, formatOf_req20_iff.mpr ⟨op, arg, hreq⟩⟩
  | cmd8 =>
    obtain ⟨t, k, rfl, hfit, rfl⟩ := decode_cmd8_cases h
    have hframe := cmdFrame_cmdInstr hfit
    exact ⟨encode_command hframe, (formatOf_cmd8_iff c).mpr ⟨k, t, hframe⟩⟩
  | ack4 =>
    have hbytes := decode_ack4_bytes h
    obtain ⟨hf, -⟩ | ⟨-, h9⟩ := formatOf_received hbytes
    · exact ⟨encode_received c hbytes, hf⟩
    · exact absurd (h9.symm.trans hlen) (by decide)
  | meas9 =>
    have hbytes := decode_meas9_bytes h
    obtain ⟨-, h4⟩ | ⟨hf, -⟩ := formatOf_received hbytes
    · exact absurd (h4.symm.trans hlen) (by decide)
    · exact ⟨encode_received c hbytes, hf⟩

/-- A well-formed received frame is decoded from its bytes. -/
theorem decode_encode_received {c : Config} {i : Instr} {f : Format} (hf : formatOf i = some f)
    (hr : f = .ack4 ∨ f = .meas9) (hw : i.wf c = true) : decode c f (encode c i) = .ok i := by
  cases i <;> simp only [formatOf, Option.some.injEq, reduceCtorEq] at hf <;> subst hf
  case ackOther st => exact congrArg Except.ok (ackInstr_of_wf hw)
  case ackSuccess | ackErrorInstruction | ackErrorParameter | measFrame => rfl
  all_goals simp at hr

/-- Settles O9: a request word holds its fields, a command frame fits one kind only, a received frame names its row. -/
theorem decodeOfEncode : Obligations.DecodeOfEncode := by
  intro c i f hf hw hc
  have hwf : f ≠ .req20 → i.wf c = true := hw.resolve_right
  cases f with
  | req20 =>
    obtain ⟨op, arg, hreq⟩ := formatOf_req20_iff.mp hf
    rw [encode_request c hreq, decode_reqBytes, decodeReqWord_reqWord hreq]
  | cmd8 =>
    obtain ⟨k, t, hframe⟩ := (formatOf_cmd8_iff c).mp hf
    have hfit := frameFits_cmdFrame hframe
    obtain rfl := cmdInstr_cmdFrame hframe
    rw [encode_command hframe, decode_toList hfit, decodeCmd_of_fits (hc rfl) hfit (hwf nofun)]
  | ack4 => exact decode_encode_received hf (.inl rfl) (hwf nofun)
  | meas9 => exact decode_encode_received hf (.inr rfl) (hwf nofun)

/-- Settles O8, word by word. -/
theorem decodedWordsOfEveryFormat : Obligations.DecodedWordsOfEveryFormat :=
  ⟨rfl, rfl, rfl, rfl, rfl, rfl, rfl, rfl, rfl, rfl⟩

end Sys2Proof.Proofs
end

section
/-! SUPPORT. What a step adds to the history (20_memory.md R75): each event its own entry, and nothing else does. -/

namespace Sys2Proof.Proofs

open Sys2Proof.Machine Sys2Proof.Claims

/-! The entry of each event. -/

theorem finish_hist (st : Status) (s : State) : (finish st s).hist = s.hist := by
  obtain ⟨-, -, -, h⟩ | ⟨st', h, -⟩ := finish_outcome st s <;> rw [h] <;> rfl

theorem stepResult_hist {r : Status} {s t : State} (h : stepResult r s = .next t) : t.hist = s.hist := by
  obtain ⟨-, -, rfl⟩ | ⟨-, -, -, rfl⟩ | ⟨-, -, -, rfl⟩ | ⟨-, -, rfl⟩ | ⟨-, -, rfl⟩ | ⟨-, rfl⟩ := stepResult_cases h
  · rfl
  · rfl
  · exact finish_hist _ { s with cx := .failed }
  · exact finish_hist r { s with stat := r, cx := .done }
  · rfl
  · exact finish_hist s.stat { s with cx := .done }

/-- No move is an event: it records nothing. -/
theorem Move.hist {m u : State} (h : Move m u) : u.hist = m.hist := by
  cases h with
  | result _ h => exact stepResult_hist h
  | stay | listen | measured | missed | taken => rfl

theorem byteSent_hist {s t : State} (h : byteSent s = .next t) : t.hist = s.hist := by
  obtain ⟨-, rfl⟩ | ⟨-, -, -, h⟩ | ⟨-, -, rfl⟩ := byteSent_cases h
  · rfl
  · exact stepResult_hist h
  · rfl

theorem txDone_hist {s t : State} (h : txDone s = .next t) : t.hist = .tx s.devId s.txData .done :: s.hist :=
  byteSent_hist (txDone_cases h).2

theorem txFail_hist {s t : State} (h : txFail s = .next t) : t.hist = .tx s.devId s.txData .fail :: s.hist :=
  stepResult_hist (txFail_cases h).2

theorem endRun_hist {found : Bool} {s t : State} (hp : s.ph = .scan ∨ s.ph = .pay) (h : endRun found s = .next t) :
    t.hist = s.hist := (endRun_move hp h).hist

theorem rxByte_hist {b : Byte} {s t : State} (h : rxByte b s = .next t) :
    t.hist = .rx s.devId (.byte b) :: s.hist := by
  obtain ⟨hp, h⟩ | ⟨hp, h⟩ := rxByte_cases h
  · obtain ⟨-, rfl⟩ | ⟨-, -, h⟩ | ⟨-, -, rfl⟩ := searchStep_cases h
    · rfl
    · exact endRun_hist (s := afterSearchByte b (s.observe _)) (.inl hp) h
    · rfl
  · obtain ⟨-, h⟩ | ⟨-, rfl⟩ := payloadStep_cases h
    · exact endRun_hist (s := (s.observe _).pushPayload b) (.inr hp) h
    · rfl

theorem rxFail_hist {s t : State} (h : rxFail s = .next t) : t.hist = .rx s.devId .fail :: s.hist := by
  obtain ⟨hp, h⟩ := rxFail_cases h
  exact endRun_hist (s := s.observe _) hp h

theorem rspTaken_hist {s t : State} (h : rspTaken s = .next t) : t.hist = .rsp s.response :: s.hist := by
  obtain ⟨-, rfl⟩ := rspTaken_cases h
  rfl

theorem request_hist {w : BitVec 20} {s t : State} (h : exec (decodeReqWord w) s = .next t) (hp : s.ph = .idle) :
    ∃ op arg, t.hist = .req op arg :: s.hist := by
  apply request_cases h hp
  all_goals intros; exact ⟨_, _, rfl⟩

/-! What a step adds. -/

/-- The history went from h to h' by entries that all satisfy Q. -/
def Adds (Q : Obs → Prop) (h h' : List Obs) : Prop := ∃ new, h' = new ++ h ∧ ∀ o ∈ new, Q o

theorem Adds.none {Q : Obs → Prop} (h : List Obs) : Adds Q h h := ⟨[], rfl, nofun⟩

theorem Adds.cons {Q : Obs → Prop} {h h' : List Obs} (ha : Adds Q h h') {o : Obs} (ho : Q o) : Adds Q h (o :: h') := by
  obtain ⟨new, rfl, hnew⟩ := ha
  exact ⟨o :: new, rfl, List.forall_mem_cons.mpr ⟨ho, hnew⟩⟩

/-- An entry that a step from s may add (41_command_fsm.md R165): a TX transaction is in PH_TX, for the device of s, and its
byte is one of the frame on the TX port, from TXI on. -/
def Offered (s : State) : Obs → Prop
  | .tx dev b _ => s.ph = .tx ∧ dev = s.devId ∧ ∃ j : Fin 8, s.txi.val ≤ j.val ∧ b = s.ctByte s.kind j
  | .req _ _ | .rx _ _ | .rsp _ | .rst => True

theorem offered_tx {s : State} (hp : s.ph = .tx) {j : Fin 8} (hj : s.txi.val ≤ j.val) (a : TxAns) :
    Offered s (.tx s.devId (s.ctByte s.kind j) a) := ⟨hp, rfl, j, hj, rfl⟩

/-- A delivery of bytes records received bytes only. -/
theorem deliver_adds (s₀ : State) {bs : List Byte} {s t : State} (h : deliver bs s = .next t) :
    Adds (Offered s₀) s.hist t.hist :=
  deliver_keeps (P := fun u => Adds (Offered s₀) s.hist u.hist)
    (fun _ _ _ hu hv => rxByte_hist hv ▸ hu.cons trivial) (fun _ _ hu => hu) (.none s.hist) h

theorem mem_drop_byteIndexes {i j : Fin 8} (h : j ∈ byteIndexes.drop i.val) : i.val ≤ j.val := by
  revert i j; decide

/-- The rest of a frame taken as one buffer call records its bytes from TXI on (20_memory.md R61). -/
theorem sendRest_adds {s t : State} (hp : s.ph = .tx) (h : sendRest (8 - s.txi.val) s = .next t) :
    Adds (Offered s) s.hist t.hist := by
  rw [sendRest_tx hp] at h
  rw [txDone_hist h]
  refine Adds.cons ⟨_, rfl, fun o ho => ?_⟩ (offered_tx (j := 7) hp (Nat.le_of_lt_succ s.txi.isLt) .done)
  obtain ⟨j, hj, rfl⟩ := List.mem_map.mp (List.mem_reverse.mp ho)
  exact offered_tx hp (mem_drop_byteIndexes (List.mem_of_mem_take hj)) .done

/-- A step records one event, a buffer call, or nothing; only in PH_TX it records TX transactions. -/
theorem step_adds {s t : State} (h : step s = .next t) : Adds (Offered s) s.hist t.hist := by
  have event : ∀ {o : Obs}, t.hist = o :: s.hist → Offered s o → Adds (Offered s) s.hist t.hist :=
    fun ht ho => ht ▸ (Adds.none s.hist).cons ho
  obtain hn | ⟨rest, hr⟩ := noReset_or s
  · obtain ⟨-, -, rfl⟩ | ⟨hp, w, rest, -, h⟩ | ⟨hp, -, h⟩ | ⟨-, -, -, rfl⟩ | ⟨hp, -, as, -, h⟩ | ⟨hp, -, as, -, h⟩ |
      ⟨-, -, h⟩ | ⟨-, -, -, rfl⟩ | ⟨-, -, b, as, -, h⟩ | ⟨-, -, as, -, h⟩ | ⟨-, -, rfl⟩ | ⟨-, n, -, h⟩ := step_cases hn h
    · exact .none s.hist
    · obtain ⟨op, arg, ht⟩ := request_hist h hp
      exact event ht trivial
    · exact sendRest_adds (s := { s with rst := s.rst.tail, txBuf := false }) hp h
    · exact .none s.hist
    · exact event (txDone_hist h :) (offered_tx hp (Nat.le_refl _) .done)
    · exact event (txFail_hist h :) (offered_tx hp (Nat.le_refl _) .fail)
    · exact (deliver_adds s h :)
    · exact .none s.hist
    · exact event (rxByte_hist h :) trivial
    · exact event (rxFail_hist h :) trivial
    · exact .none s.hist
    · exact event (rspTaken_hist h :) trivial
  · rw [step_of_reset hr] at h
    cases h
    exact event rfl trivial

/-- Bytes 0 to 3 of every template of the invariant are the header (30_encoding.md R91). -/
theorem ctByte_header {s : State} (h : SeqInv s) (k : Kind) {j : Fin 8} (hj : j.val < 4) :
    [0x42#8, 0x57#8, 0x02#8, 0x00#8][j.val]? = some (s.ctByte k j) := by
  rw [h.ctFixed k j (not_mem_writes_of_header k hj)]
  exact ctInit_header s.cfg k hj

/-- Settles O55: the entries are those of the frame on the TX port, and its header is CT_INIT's. -/
theorem onlyTemplatesAreSent : Obligations.OnlyTemplatesAreSent := by
  intro s t hinv h
  obtain ⟨new, ht, hnew⟩ := step_adds h
  refine ⟨new, ht, fun dev b a ho => ?_⟩
  obtain ⟨hp, hdev, j, hj, rfl⟩ := hnew _ ho
  exact ⟨hp, hdev, j, hj, rfl, ctByte_header hinv s.kind⟩

end Sys2Proof.Proofs
end

section
/-! SUPPORT. The events of a run (40_frame_sync.md R135, R138, R139) in the claims' terms, and the obligations that state
them. -/

namespace Sys2Proof.Proofs

open Sys2Proof.Machine Sys2Proof.Claims

/-! The two namings of the wire's constants (30_encoding.md R94, R95). -/

theorem prefixOf_eq_magic (m : FsMode) : prefixOf m = magic m := by cases m <;> rfl

theorem prefixLen_eq_magic_length (m : FsMode) : prefixLen m = (magic m).length := by cases m <;> rfl

theorem payloadLen_eq_payload (m : FsMode) : payloadLen m = payload m := by cases m <;> rfl

theorem prefixLen_pos (m : FsMode) : 0 < prefixLen m := by cases m <;> decide

theorem prefixLen_le (m : FsMode) : prefixLen m ≤ 3 := by cases m <;> decide

theorem payloadLen_pos (m : FsMode) : 0 < payloadLen m := by cases m <;> decide

theorem payloadLen_le (m : FsMode) : payloadLen m ≤ 7 := by cases m <;> decide

theorem ackStatus_eq_statusOf (st : Byte) : ackStatus st = statusOf st := by
  have same : ∀ {b : Byte}, st.toNat = b.toNat → st = b := BitVec.eq_of_toNat_eq
  unfold statusOf
  split
  next h => rw [same (b := 0x01#8) h]; rfl
  next h => rw [same (b := 0xFF#8) h]; rfl
  next h => rw [same (b := 0x0F#8) h]; rfl
  next h1 h2 h3 =>
    have ne : ∀ {b : Byte}, st.toNat ≠ b.toNat → st ≠ b := fun h he => h (congrArg BitVec.toNat he)
    simp only [ackStatus, ne (b := 0x01#8) h1, ne (b := 0xFF#8) h2, ne (b := 0x0F#8) h3, if_false]

/-! The search step (R135). -/

theorem rxByte_scan {s : State} (hp : s.ph = .scan) (b : Byte) :
    rxByte b s = searchTests (afterSearchByte b (s.observe (.rx s.devId (.byte b)))) := by
  simp only [rxByte, hp, searchStep]

theorem rxByte_pay {s : State} (hp : s.ph = .pay) (b : Byte) :
    rxByte b s = payloadTest ((s.observe (.rx s.devId (.byte b))).pushPayload b) := by
  simp only [rxByte, hp, payloadStep]

theorem rxFail_run {s : State} (hp : s.ph = .scan ∨ s.ph = .pay) : rxFail s = endRun false (received .fail s) := by
  obtain hp | hp := hp <;> simp only [rxFail, hp] <;> rfl

theorem searchTests_matched {s : State} (h : s.mc.val = prefixLen s.fsmode) :
    searchTests s = .next { s with pc := 0, ph := .pay } := if_pos h

theorem searchTests_exhausted {s : State} (h : s.mc.val ≠ prefixLen s.fsmode) (ha : s.att = s.msa) :
    searchTests s = endRun false s := (if_neg h).trans (if_pos ha)

theorem searchTests_searching {s : State} (h : s.mc.val ≠ prefixLen s.fsmode) (ha : s.att ≠ s.msa) :
    searchTests s = .next s := (if_neg h).trans (if_neg ha)

/-- MC after a byte, by its value: one more on a match, else 0 (R135, R136). -/
theorem val_nextMc {m : FsMode} {mc : Fin 4} (h : mc.val < prefixLen m) (b : Byte) :
    (nextMc m mc b).val = if (magic m)[mc.val]? = some b then mc.val + 1 else 0 := by
  have h3 := prefixLen_le m
  rw [nextMc, prefixOf_eq_magic, apply_ite Fin.val, Fin.val_add_one_of_lt' (by omega)]
  rfl

/-- In a state with budget left ATT does not wrap (R134). -/
theorem narrow_succ {s : State} (hatt : s.att < s.msa) (hw : s.msa < 2 ^ s.cfg.msaW) :
    s.cfg.narrow (s.att + 1) = s.att + 1 := Nat.mod_eq_of_lt (by omega)

/-- Settles O31: with ATT and MC counted as the rule does, the two tests of the search step in their order. -/
theorem searchStepMatchesOrRestarts : Obligations.SearchStepMatchesOrRestarts := by
  intro s b mc hp hatt hw hlt hmc
  have hnext : nextMc s.fsmode s.mc b = mc :=
    Fin.ext ((val_nextMc (by rw [prefixLen_eq_magic_length]; exact hlt) b).trans hmc.symm)
  have hstep : rxByte b s = searchTests (received (.byte b) { s with att := s.att + 1, mc := mc }) := by
    rw [rxByte_scan hp, ← hnext, ← narrow_succ hatt hw]; rfl
  rw [hstep, ← prefixLen_eq_magic_length]
  exact ⟨fun h => searchTests_matched h,
    fun h ha => searchTests_exhausted h ha,
    fun h ha => searchTests_searching h ha⟩

/-! The payload step (R138). -/

theorem payloadTest_found {s : State} (h : s.pc.val = payloadLen s.fsmode) : payloadTest s = endRun true s := if_pos h

theorem payloadTest_more {s : State} (h : s.pc.val ≠ payloadLen s.fsmode) : payloadTest s = .next s := if_neg h

/-- Settles O32: the byte is stored at PC, and PC against N decides; a failure ends the run in either phase. -/
theorem payloadStepAndReceiveFailure : Obligations.PayloadStepAndReceiveFailure := by
  refine ⟨fun s b h p hp hpc => ?_, fun s => rxFail_run⟩
  have hp1 : s.pc + 1 = p := Fin.ext ((Fin.val_add_one_of_lt' (by omega)).trans hpc.symm)
  have hpb : s.pb.setIfInBounds s.pc b = s.pb.set s.pc.val b h := by
    ext j hj; simp [Vector.getElem_setIfInBounds, Vector.getElem_set]
  have hstep : rxByte b s = payloadTest (received (.byte b) { s with pb := s.pb.set s.pc.val b h, pc := p }) := by
    rw [rxByte_pay hp, ← hp1, ← hpb]; rfl
  rw [hstep, ← payloadLen_eq_payload]
  exact ⟨fun h => payloadTest_found h, fun h => payloadTest_more h⟩

end Sys2Proof.Proofs
end

section
/-! SUPPORT. MC, PC and PB tell the bytes read last (40_frame_sync.md R143): the invariant `ReadInv` speaks of a run only,
so that it is to be shown for the bytes that leave the engine in its run. -/

namespace Sys2Proof.Proofs

open Sys2Proof.Machine Sys2Proof.Claims

/-! The history of received bytes. -/

theorem receivedObs_append (dev : Nat) (bs cs : List Byte) :
    receivedObs dev (bs ++ cs) = receivedObs dev cs ++ receivedObs dev bs := by
  simp [receivedObs]

theorem receivedObs_concat (dev : Nat) (bs : List Byte) (b : Byte) :
    receivedObs dev (bs ++ [b]) = .rx dev (.byte b) :: receivedObs dev bs :=
  receivedObs_append dev bs [b]

/-! Where there is nothing to show. -/

theorem readInv_outside {s : State} (h : s.ph ≠ .scan ∧ s.ph ≠ .pay) : ReadInv s where
  scan hp := absurd hp h.1
  pay hp := absurd hp h.2

/-- At the start of a run no byte is claimed (R133). -/
theorem readInv_startRun (m : FsMode) (s : State) : ReadInv (startRun m s) where
  scan _ := rfl
  pay := nofun

theorem readInv_stepResult {r : Status} {s t : State} (h : stepResult r s = .next t) : ReadInv t := by
  refine readInv_outside ?_
  obtain hp | hp := stepResult_ph h <;> simp [hp]

theorem readInv_endRun {found : Bool} {s t : State} (h : endRun found s = .next t) : ReadInv t := by
  obtain ⟨-, h⟩ | ⟨-, -, rfl⟩ | ⟨-, -, rfl⟩ := endRun_cases h
  · exact readInv_stepResult h
  · exact readInv_outside ⟨nofun, nofun⟩
  · exact readInv_outside ⟨nofun, nofun⟩

/-! The events. -/

theorem readInv_request {w : BitVec 20} {s t : State} (hp : s.ph = .idle) (h : exec (decodeReqWord w) s = .next t) :
    ReadInv t := by
  apply request_cases h hp
  case hread => exact fun arg => readInv_startRun .meas (acceptReq 0 arg s)
  all_goals intros; exact readInv_outside ⟨nofun, nofun⟩

theorem readInv_byteSent {s t : State} (hp : s.ph = .tx) (h : byteSent s = .next t) : ReadInv t := by
  obtain ⟨-, rfl⟩ | ⟨-, -, -, h⟩ | ⟨-, -, rfl⟩ := byteSent_cases h
  · exact readInv_outside (by simp [hp])
  · exact readInv_stepResult h
  · exact readInv_startRun .ack s

theorem readInv_txDone {s t : State} (h : txDone s = .next t) : ReadInv t := by
  obtain ⟨hp, h⟩ := txDone_cases h
  exact readInv_byteSent (s := s.observe _) hp h

/-- After a byte of the search phase the last MC bytes are the first MC magic bytes: the byte is P[MC], or MC is 0. -/
theorem matched_after_byte {m : FsMode} {mc : Fin 4} {h : List Obs} {dev : Nat} (hlt : mc.val < prefixLen m)
    (hmc : h.take mc.val = receivedObs dev ((prefixOf m).take mc.val)) (b : Byte) :
    (Obs.rx dev (.byte b) :: h).take (nextMc m mc b).val =
      receivedObs dev ((prefixOf m).take (nextMc m mc b).val) := by
  rw [val_nextMc hlt, ← prefixOf_eq_magic]
  split
  next hb => rw [List.take_succ_cons, hmc, List.take_add_one, hb, Option.toList_some, receivedObs_concat]
  next => rfl

theorem readInv_searchStep {b : Byte} {s t : State} (hs : SeqInv s) (hr : ReadInv s) (hp : s.ph = .scan)
    (h : searchStep b (s.observe (.rx s.devId (.byte b))) = .next t) : ReadInv t := by
  obtain ⟨hlt, -, -⟩ := hs.scan hp
  have hafter := matched_after_byte hlt (hr.scan hp) b
  obtain ⟨hfull, rfl⟩ | ⟨-, -, h⟩ | ⟨-, -, rfl⟩ := searchStep_cases h
  · refine { scan := nofun, pay := fun _ => ?_ }
    have hL : (nextMc s.fsmode s.mc b).val = (prefixOf s.fsmode).length := by
      rw [prefixOf_eq_magic, ← prefixLen_eq_magic_length]; exact hfull
    have hlen : prefixLen s.fsmode = (prefixOf s.fsmode).length := hfull.symm.trans hL
    rw [hL, List.take_length, ← hlen] at hafter
    simpa using hafter
  · exact readInv_endRun h
  · exact { scan := fun _ => hafter, pay := fun hpay => absurd (hp.symm.trans hpay) nofun }

/-- PB[0..PC] after the byte of PC. -/
theorem take_setIfInBounds {pb : Vector Byte 7} {i : Nat} (h : i < 7) (b : Byte) :
    (pb.setIfInBounds i b).toList.take (i + 1) = pb.toList.take i ++ [b] := by
  rw [Vector.toList_setIfInBounds, List.take_add_one, List.take_set_of_le (Nat.le_refl i)]
  simp [h]

theorem readInv_payloadStep {b : Byte} {s t : State} (hs : SeqInv s) (hr : ReadInv s) (hp : s.ph = .pay)
    (h : payloadStep b (s.observe (.rx s.devId (.byte b))) = .next t) : ReadInv t := by
  obtain ⟨-, h⟩ | ⟨-, rfl⟩ := payloadStep_cases h
  · exact readInv_endRun h
  · refine { scan := fun hscan => absurd (hp.symm.trans hscan) nofun, pay := fun _ => ?_ }
    obtain ⟨-, hpc, -⟩ := hs.pay hp
    have h7 : s.pc.val < 7 := Nat.lt_of_lt_of_le hpc (payloadLen_le s.fsmode)
    show (Obs.rx s.devId (.byte b) :: s.hist).take (prefixLen s.fsmode + (s.pc + 1).val) =
      receivedObs s.devId (prefixOf s.fsmode ++ (s.pb.setIfInBounds s.pc b).toList.take (s.pc + 1).val)
    rw [pc_succ hs hp, take_setIfInBounds h7, ← List.append_assoc, receivedObs_concat, ← hr.pay hp, ← Nat.add_assoc,
      List.take_succ_cons]

theorem readInv_rxByte {b : Byte} {s t : State} (hs : SeqInv s) (hr : ReadInv s) (h : rxByte b s = .next t) :
    ReadInv t := by
  obtain ⟨hp, h⟩ | ⟨hp, h⟩ := rxByte_cases h
  · exact readInv_searchStep hs hr hp h
  · exact readInv_payloadStep hs hr hp h

/-- Settles O50: `step_keeps` with SeqInv beside it, which bounds MC and PC. -/
theorem stepKeepsTheReadInvariant : Obligations.StepKeepsTheReadInvariant := fun _ _ hs hr h =>
  And.right <| step_keeps (P := fun s => SeqInv s ∧ ReadInv s)
    (fun _ _ _ _ _ _ _ _ ⟨hs, hr⟩ => ⟨{ hs with }, { hr with }⟩)
    (fun _ ⟨hs, _⟩ => ⟨seqInv_resetEvent hs, readInv_outside ⟨nofun, nofun⟩⟩)
    (fun _ _ _ ⟨hs, _⟩ hp h => ⟨seqInv_request hs hp h, readInv_request hp h⟩)
    (fun _ _ ⟨hs, _⟩ h => ⟨seqInv_txDone hs h, readInv_txDone h⟩)
    (fun _ _ ⟨hs, _⟩ h => ⟨seqInv_txFail hs h, readInv_stepResult (txFail_cases h).2⟩)
    (fun _ _ _ ⟨hs, hr⟩ h => ⟨seqInv_rxByte hs h, readInv_rxByte hs hr h⟩)
    (fun _ _ ⟨hs, _⟩ h => ⟨seqInv_rxFail hs h, readInv_endRun (rxFail_cases h).2⟩)
    (fun _ _ ⟨hs, _⟩ h => ⟨seqInv_rspTaken hs h, (rspTaken_cases h).2 ▸ readInv_outside ⟨nofun, nofun⟩⟩)
    ⟨hs, hr⟩ h

end Sys2Proof.Proofs
end

section
/-! SUPPORT. `Sync` on a stream whose bytes are known (40_frame_sync.md R131, R142): the search loop reads bytes until
the match is complete or the budget is used up, the payload loop reads N bytes. -/

namespace Sys2Proof.Proofs

open Sys2Proof.Machine Sys2Proof.Claims

/-! The loops of R131, one transaction at a time. -/

section
variable {n : Nat} {m : FsMode} {s : State}

theorem payloadLoop_done (h : n ≤ s.pc.val) (as : List RxAns) : payloadLoop n as s = .returns .found s := by
  rw [payloadLoop.eq_def]; exact if_pos h

theorem payloadLoop_nil (h : s.pc.val < n) : payloadLoop n [] s = .waits s := by
  rw [payloadLoop.eq_def]; exact if_neg h.not_ge

theorem payloadLoop_fail (h : s.pc.val < n) (as : List RxAns) :
    payloadLoop n (.fail :: as) s = .returns (.notFound .transportFailure) (s.takeRx .fail as) := by
  rw [payloadLoop.eq_def]; exact if_neg h.not_ge

theorem payloadLoop_byte (h : s.pc.val < n) (b : Byte) (as : List RxAns) :
    payloadLoop n (.byte b :: as) s = payloadLoop n as ((s.takeRx (.byte b) as).pushPayload b) := by
  rw [payloadLoop.eq_def]; exact if_neg h.not_ge

theorem searchLoop_matched (h : prefixLen m ≤ s.mc.val) (as : List RxAns) :
    searchLoop m as s = payloadLoop (payloadLen m) as { s with ph := .pay } := by
  rw [searchLoop.eq_def]; exact if_pos h

theorem searchLoop_exhausted (h : s.mc.val < prefixLen m) (ha : s.att = s.msa) (as : List RxAns) :
    searchLoop m as s = .returns (.notFound .budgetExhausted) s := by
  rw [searchLoop.eq_def]; exact (if_neg h.not_ge).trans (if_pos ha)

theorem searchLoop_nil (h : s.mc.val < prefixLen m) (ha : s.att ≠ s.msa) : searchLoop m [] s = .waits s := by
  rw [searchLoop.eq_def]; exact (if_neg h.not_ge).trans (if_neg ha)

theorem searchLoop_fail (h : s.mc.val < prefixLen m) (ha : s.att ≠ s.msa) (as : List RxAns) :
    searchLoop m (.fail :: as) s = .returns (.notFound .transportFailure) (s.takeRx .fail as) := by
  rw [searchLoop.eq_def]; exact (if_neg h.not_ge).trans (if_neg ha)

theorem searchLoop_byte (h : s.mc.val < prefixLen m) (ha : s.att ≠ s.msa) (b : Byte) (as : List RxAns) :
    searchLoop m (.byte b :: as) s = searchLoop m as (afterSearchByte b (s.takeRx (.byte b) as)) := by
  rw [searchLoop.eq_def]; exact (if_neg h.not_ge).trans (if_neg ha)

end

theorem answers_append (bs cs : List Byte) : answers (bs ++ cs) = answers bs ++ answers cs := List.map_append

theorem receivedObs_cons (dev : Nat) (b : Byte) (bs : List Byte) (h : List Obs) :
    receivedObs dev (b :: bs) ++ h = receivedObs dev bs ++ .rx dev (.byte b) :: h := by
  rw [← List.singleton_append, receivedObs_append, List.append_assoc]; rfl

/-! The search phase. -/

/-- MC after the bytes bs (R135, R136). -/
def mcAfter (m : FsMode) (mc : Fin 4) (bs : List Byte) : Fin 4 := bs.foldl (nextMc m) mc

/-- Every byte of bs is read in the search phase: the match is complete, if at all, at the end of bs. -/
def Searching (m : FsMode) : Fin 4 → List Byte → Prop
  | _, [] => True
  | mc, b :: bs => mc.val < prefixLen m ∧ Searching m (nextMc m mc b) bs

/-- s after the bytes bs of the search phase. -/
def scanned (bs : List Byte) (s : State) : State :=
  { s with
    att := s.att + bs.length, mc := mcAfter s.fsmode s.mc bs, hist := receivedObs s.devId bs ++ s.hist }

theorem scanned_cons {s : State} (ha : s.att < s.msa) (hw : s.msa < 2 ^ s.cfg.msaW) (b : Byte) (bs : List Byte) :
    scanned bs (afterSearchByte b (s.observe (.rx s.devId (.byte b)))) = scanned (b :: bs) s := by
  simp only [scanned, afterSearchByte, State.observe, narrow_succ ha hw, receivedObs_cons, List.length_cons,
    Nat.add_assoc, Nat.add_comm 1]
  rfl

/-- The search loop reads bytes of the search phase that the budget allows. -/
theorem searchLoop_scanned {bs : List Byte} {as : List RxAns} {s : State} (hs : Searching s.fsmode s.mc bs)
    (ha : s.att + bs.length ≤ s.msa) (hw : s.msa < 2 ^ s.cfg.msaW) :
    searchLoop s.fsmode (answers bs ++ as) { s with rxAns := answers bs ++ as } =
      searchLoop s.fsmode as { scanned bs s with rxAns := as } := by
  induction bs generalizing s with
  | nil => rfl
  | cons b bs ih =>
    obtain ⟨hmc, hs⟩ := hs
    rw [List.length_cons] at ha
    have hlt : s.att < s.msa := by omega
    have hatt : (afterSearchByte b (s.observe (.rx s.devId (.byte b)))).att = s.att + 1 := narrow_succ hlt hw
    have hnext := ih (s := afterSearchByte b (s.observe (.rx s.devId (.byte b)))) hs
      (by rw [hatt]; show s.att + 1 + bs.length ≤ s.msa; omega) hw
    rw [scanned_cons hlt hw] at hnext
    exact (searchLoop_byte (s := { s with rxAns := answers (b :: bs) ++ as }) hmc hlt.ne b (answers bs ++ as)).trans hnext

theorem mcAfter_append (m : FsMode) (mc : Fin 4) (bs cs : List Byte) :
    mcAfter m mc (bs ++ cs) = mcAfter m (mcAfter m mc bs) cs := List.foldl_append

theorem searching_append {m : FsMode} {mc : Fin 4} {bs cs : List Byte} (hb : Searching m mc bs)
    (hc : Searching m (mcAfter m mc bs) cs) : Searching m mc (bs ++ cs) := by
  induction bs generalizing mc with
  | nil => exact hc
  | cons b bs ih => exact ⟨hb.1, ih hb.2 hc⟩

/-- Bytes that are not the first magic byte start no match (R142). -/
theorem garbage_scanned {m : FsMode} {g : List Byte} (hg : ∀ b ∈ g, (magic m)[0]? ≠ some b) :
    Searching m 0 g ∧ mcAfter m 0 g = 0 := by
  have hL := prefixLen_pos m
  induction g with
  | nil => exact ⟨trivial, rfl⟩
  | cons b g ih =>
    obtain ⟨hb, hg⟩ := List.forall_mem_cons.mp hg
    have hnext : nextMc m 0 b = 0 := Fin.ext ((val_nextMc hL b).trans (if_neg hb))
    obtain ⟨hs, hmc⟩ := ih hg
    refine ⟨⟨hL, ?_⟩, ?_⟩
    · rw [hnext]; exact hs
    · rw [mcAfter, List.foldl_cons, hnext]; exact hmc

/-- Behind garbage the first k magic bytes are matched one by one. -/
theorem magic_scanned {m : FsMode} {g : List Byte} (hg : ∀ b ∈ g, (magic m)[0]? ≠ some b) {k : Nat}
    (hk : k ≤ (magic m).length) :
    Searching m 0 (g ++ (magic m).take k) ∧ (mcAfter m 0 (g ++ (magic m).take k)).val = k := by
  obtain ⟨hs, hmc⟩ := garbage_scanned hg
  have hmagic : Searching m 0 ((magic m).take k) ∧ (mcAfter m 0 ((magic m).take k)).val = k := by
    have hk3 : k ≤ 3 := hk.trans (by cases m <;> decide)
    cases m <;> interval_cases k <;> simp [Searching, mcAfter, magic, nextMc, prefixOf, prefixLen] at hk ⊢
  rw [← hmc] at hmagic
  exact ⟨searching_append hs hmagic.1, by rw [mcAfter_append]; exact hmagic.2⟩

/-! The payload phase. -/

/-- PB with the bytes p stored from index i on. -/
def storeAt (pb : Vector Byte 7) (i : Nat) : List Byte → Vector Byte 7
  | [] => pb
  | b :: p => storeAt (pb.setIfInBounds i b) (i + 1) p

theorem toList_storeAt {pb : Vector Byte 7} {i : Nat} {p : List Byte} (h : i + p.length ≤ 7) :
    (storeAt pb i p).toList = pb.toList.take i ++ p ++ pb.toList.drop (i + p.length) := by
  induction p generalizing pb i with
  | nil => simp [storeAt]
  | cons b p ih =>
    rw [List.length_cons] at h
    rw [storeAt, ih (by omega), take_setIfInBounds (by omega), Vector.toList_setIfInBounds,
      List.drop_set_of_lt (by omega), List.length_cons, ← Nat.add_assoc, Nat.add_right_comm]
    simp

/-- s after the bytes p of the payload phase, PC being then `pc`. -/
def stored (p : List Byte) (pc : Fin 8) (s : State) : State :=
  { s with pb := storeAt s.pb s.pc p, pc := pc, hist := receivedObs s.devId p ++ s.hist }

/-- The payload loop reads the N bytes that it still asks for. -/
theorem payloadLoop_stored {p : List Byte} {pc : Fin 8} {as : List RxAns} {s : State}
    (h : pc.val = s.pc.val + p.length) :
    payloadLoop pc.val (answers p ++ as) { s with rxAns := answers p ++ as } =
      .returns .found { stored p pc s with rxAns := as } := by
  induction p generalizing s with
  | nil =>
    obtain rfl : pc = s.pc := Fin.ext h
    exact payloadLoop_done (s := { s with rxAns := as }) (Nat.le_refl _) as
  | cons b p ih =>
    rw [List.length_cons] at h
    have hpc : (s.pc + 1).val = s.pc.val + 1 := Fin.val_add_one_of_lt' (by have := pc.isLt; omega)
    have hnext := ih (s := (s.observe (.rx s.devId (.byte b))).pushPayload b)
      (by rw [State.pushPayload_pc, State.observe_pc, hpc]; omega)
    have hcons : stored p pc ((s.observe (.rx s.devId (.byte b))).pushPayload b) = stored (b :: p) pc s := by
      simp only [stored, State.pushPayload, State.observe, hpc, receivedObs_cons, storeAt]
    rw [hcons] at hnext
    exact (payloadLoop_byte (s := { s with rxAns := answers (b :: p) ++ as }) (by show s.pc.val < pc.val; omega) b
      (answers p ++ as)).trans hnext

/-! `Sync`. -/

/-- A run whose first bytes are in the search phase. -/
theorem runSync_scanned {s : State} {m : FsMode} {bs : List Byte} {as : List RxAns} (hr : s.rxAns = answers bs ++ as)
    (hs : Searching m 0 bs) (ha : bs.length ≤ s.msa) (hw : s.msa < 2 ^ s.cfg.msaW) :
    runSync m s = searchLoop m as { scanned bs (startRun m s) with rxAns := as } := by
  have h := searchLoop_scanned (s := startRun m s) (as := as) hs ((Nat.zero_add bs.length).trans_le ha) hw
  rw [← hr] at h
  exact h

/-- The magic bytes and the payload behind garbage, within the budget (R142). -/
theorem runSync_found {s : State} {m : FsMode} {g p : List Byte} {rest : List RxAns} {mc : Fin 4} {pc : Fin 8}
    (hg : ∀ b ∈ g, (magic m)[0]? ≠ some b) (hp : p.length = payload m) (hb : g.length + (magic m).length ≤ s.msa)
    (hw : s.msa < 2 ^ s.cfg.msaW) (hr : s.rxAns = answers (g ++ magic m ++ p) ++ rest)
    (hmc : mc.val = (magic m).length) (hpc : pc.val = payload m) :
    runSync m s = .returns .found
      { s with
        fsmode := m, mc := mc, att := g.length + (magic m).length, pc := pc, pb := storeAt s.pb 0 p, ph := .pay
        rxAns := rest, hist := receivedObs s.devId (g ++ magic m ++ p) ++ s.hist } := by
  obtain ⟨hs, hmatch⟩ := magic_scanned hg (Nat.le_refl (magic m).length)
  rw [List.take_length] at hs hmatch
  obtain rfl : mcAfter m 0 (g ++ magic m) = mc := Fin.ext (hmatch.trans hmc.symm)
  rw [answers_append, List.append_assoc] at hr
  rw [runSync_scanned hr hs (by simpa using hb) hw,
    searchLoop_matched (show prefixLen m ≤ (mcAfter m 0 (g ++ magic m)).val by rw [hmatch, prefixLen_eq_magic_length]),
    payloadLen_eq_payload, ← hpc]
  refine (payloadLoop_stored (s := { scanned (g ++ magic m) (startRun m s) with ph := .pay }) (hpc.trans ?_)).trans ?_
  · show payload m = 0 + p.length
    omega
  · rw [receivedObs_append s.devId (g ++ magic m) p, List.append_assoc]
    simp [stored, scanned, startRun]

/-- The budget's last byte does not complete the match (R137). -/
theorem runSync_exhausted {s : State} {m : FsMode} {bs : List Byte} {as : List RxAns} (hr : s.rxAns = answers bs ++ as)
    (hs : Searching m 0 bs) (hmc : (mcAfter m 0 bs).val < prefixLen m) (ha : bs.length = s.msa)
    (hw : s.msa < 2 ^ s.cfg.msaW) :
    runSync m s = .returns (.notFound .budgetExhausted) { scanned bs (startRun m s) with rxAns := as } := by
  rw [runSync_scanned hr hs ha.le hw]
  refine searchLoop_exhausted hmc ?_ as
  show 0 + bs.length = s.msa
  omega

/-- Settles O40: `Sync` stores the payload from PB[0] on. -/
theorem syncFindsTheFrameBehindGarbage : Obligations.SyncFindsTheFrameBehindGarbage := by
  intro s m g p rest hg hp hb hw hr
  obtain ⟨mc, hmc⟩ : ∃ mc : Fin 4, mc.val = (magic m).length := by cases m <;> exact ⟨⟨_, by decide⟩, rfl⟩
  obtain ⟨pc, hpc⟩ : ∃ pc : Fin 8, pc.val = payload m := by cases m <;> exact ⟨⟨_, by decide⟩, rfl⟩
  have h := runSync_found hg hp hb hw hr hmc hpc
  refine ⟨_, congrArg (callProc .sync) h, hmc, hpc, ?_, rfl⟩
  have h7 : payload m ≤ 7 := payloadLen_eq_payload m ▸ payloadLen_le m
  show (storeAt s.pb 0 p).toList = _
  rw [toList_storeAt (by omega), hp]
  simp

/-- Without the budget for garbage and magic bytes (R137, R142). -/
theorem runSync_short {s : State} {m : FsMode} {g p : List Byte} {rest : List RxAns}
    (hg : ∀ b ∈ g, (magic m)[0]? ≠ some b) (hb : s.msa < g.length + (magic m).length) (hw : s.msa < 2 ^ s.cfg.msaW)
    (hr : s.rxAns = answers (g ++ magic m ++ p) ++ rest) :
    ∃ mc : Fin 4, mc.val = s.msa - g.length ∧
      runSync m s = .returns (.notFound .budgetExhausted)
        { s with
          fsmode := m, mc := mc, att := s.msa, pc := 0, ph := .scan, rxAns := s.rxAns.drop s.msa
          hist := receivedObs s.devId ((g ++ magic m ++ p).take s.msa) ++ s.hist } := by
  have hread : (g ++ magic m ++ p).take s.msa = g.take s.msa ++ (magic m).take (s.msa - g.length) := by
    rw [List.append_assoc, List.take_append, List.take_append_of_le_length (by omega)]
  have hle : s.msa ≤ (g ++ magic m ++ p).length := by simp only [List.length_append]; omega
  have hlen : ((g ++ magic m ++ p).take s.msa).length = s.msa := by
    exact List.length_take_of_le hle
  obtain ⟨hs, hmc⟩ := magic_scanned (fun b hb => hg b (List.mem_of_mem_take hb))
    (show s.msa - g.length ≤ (magic m).length by omega)
  rw [← hread] at hs hmc
  have hstream : s.rxAns = answers ((g ++ magic m ++ p).take s.msa) ++ s.rxAns.drop s.msa := by
    have htake : s.rxAns.take s.msa = answers ((g ++ magic m ++ p).take s.msa) := by
      rw [hr, List.take_append_of_le_length (by rwa [answers, List.length_map])]; exact List.map_take.symm
    rw [← htake, List.take_append_drop]
  have hpart : (mcAfter m 0 ((g ++ magic m ++ p).take s.msa)).val < prefixLen m := by
    have hpos := prefixLen_pos m
    rw [prefixLen_eq_magic_length] at hpos ⊢
    omega
  have h := runSync_exhausted hstream hs hpart hlen hw
  refine ⟨_, hmc, h.trans ?_⟩
  simp only [scanned, startRun, hlen, Nat.zero_add]

/-- Settles O41: the budget's last byte is read before the match is complete, or a failure follows the garbage. -/
theorem syncEndsWithoutAFrame : Obligations.SyncEndsWithoutAFrame := by
  refine ⟨fun s m g p rest hg hb hw hr => ?_, fun s m g rest hg hb hw hr => ?_⟩
  · obtain ⟨mc, hmc, h⟩ := runSync_short hg hb hw hr
    exact ⟨_, congrArg (callProc .sync) h, hmc, rfl⟩
  · obtain ⟨hs, hmc⟩ := garbage_scanned hg
    have h := (runSync_scanned hr hs hb.le hw).trans (searchLoop_fail
      (show (mcAfter m 0 g).val < prefixLen m by rw [hmc]; exact prefixLen_pos m)
      (show 0 + g.length ≠ s.msa by omega) rest)
    refine (congrArg (callProc .sync) h).trans ?_
    simp [callProc, scanned, startRun, State.takeRx, State.observe, hmc]

/-! `SyncAck` (R141). -/

theorem runSyncAck_found {s t : State} (h : runSync .ack s = .returns .found t) :
    runSyncAck s = .returns (statusOf t.pb[0]) t := by
  rw [runSyncAck, h, ← ackStatus_eq_statusOf]

theorem runSyncAck_notFound {s t : State} {c : SyncCause} (h : runSync .ack s = .returns (.notFound c) t) :
    runSyncAck s = .returns .errorTransmission t := by
  rw [runSyncAck, h]

/-- Settles O42: the acknowledgment is found or the budget is too small for it. -/
theorem syncAckMapsTheStatusByte : Obligations.SyncAckMapsTheStatusByte := by
  intro s g st rest hg hw hr
  have hg : ∀ b ∈ g, (magic .ack)[0]? ≠ some b := fun b hb he => hg b hb (Option.some.inj he).symm
  have hr : s.rxAns = answers (g ++ magic .ack ++ [st]) ++ rest := by rw [List.append_assoc]; exact hr
  by_cases hb : g.length + 3 ≤ s.msa
  · have h := runSyncAck_found (runSync_found hg rfl hb hw hr (mc := 3) (pc := 1) rfl rfl)
    have hst : (storeAt s.pb 0 [st])[0] = st := by simp [storeAt]
    refine ⟨_, congrArg (callProc .status) h, fun _ => ⟨?_, rfl, hst⟩, fun hlt => absurd hb (by omega), rfl⟩
    exact congrArg (fun b => Ret.status (statusOf b)) hst
  · obtain ⟨mc, -, h⟩ := runSync_short hg (Nat.lt_of_not_le hb) hw hr
    exact ⟨_, congrArg (callProc .status) (runSyncAck_notFound h), fun hle => absurd hle hb, fun _ => ⟨rfl, rfl⟩, rfl⟩

end Sys2Proof.Proofs
end

section
/-! SUPPORT. The loops of `Sync` are the events of a run (40_frame_sync.md R131, R135): the answers that a loop takes lead
the engine from event to event, and the last of them ends the run. -/

namespace Sys2Proof.Proofs

open Sys2Proof.Machine Sys2Proof.Claims

/-- The event of an answer on the RX port (10_state.md R41). -/
def rxEvent : RxAns → State → Result
  | .byte b => rxByte b
  | .fail => rxFail

/-- From s in a run the answers are the rest of the run's transactions, and o is the outcome of the last of them. -/
inductive RunEnds : List RxAns → State → Result → Prop where
  | last {a : RxAns} {s : State} (hp : s.ph = .scan ∨ s.ph = .pay) : RunEnds [a] s (rxEvent a s)
  | more {a : RxAns} {as : List RxAns} {s u : State} {o : Result} (hp : s.ph = .scan ∨ s.ph = .pay)
      (hu : rxEvent a s = .next u) (h : RunEnds as u o) : RunEnds (a :: as) s o

/-! The loops end the run. The stream of s is of no concern to the events, and neither is `ret`. -/

/-- Where the payload loop returns, the answers it took end the run. -/
theorem payloadLoop_ends {as : List RxAns} {s t : State} {r : SyncResult} (rx : List RxAns) (hp : s.ph = .pay)
    (hpc : s.pc.val < payloadLen s.fsmode) (h : payloadLoop (payloadLen s.fsmode) as s = .returns r t) :
    ∃ used, as = used ++ t.rxAns ∧
      RunEnds used { s with rxAns := rx } (endRun (decide (r = .found)) { t with rxAns := rx, ret := s.ret }) := by
  induction as generalizing s with
  | nil => rw [payloadLoop_nil hpc] at h; cases h
  | cons a as ih =>
    cases a with
    | fail =>
      rw [payloadLoop_fail hpc] at h
      cases h
      exact ⟨[.fail], rfl, (rxFail_run (s := { s with rxAns := rx }) (.inr hp)) ▸ .last (.inr hp)⟩
    | byte b =>
      rw [payloadLoop_byte hpc] at h
      have hs : (s.pc + 1).val = s.pc.val + 1 :=
        Fin.val_add_one_of_lt' (by have := payloadLen_le s.fsmode; omega)
      have hevent := rxByte_pay (s := { s with rxAns := rx }) hp b
      by_cases hfull : (s.pc + 1).val = payloadLen s.fsmode
      · rw [payloadLoop_done hfull.ge] at h
        cases h
        rw [payloadTest_found hfull] at hevent
        exact ⟨[.byte b], rfl, hevent ▸ .last (.inr hp)⟩
      · rw [payloadTest_more hfull] at hevent
        obtain ⟨used, rfl, hends⟩ := ih (s := (s.takeRx (.byte b) as).pushPayload b) hp
          (show (s.pc + 1).val < payloadLen s.fsmode by omega) h
        exact ⟨.byte b :: used, rfl, .more (.inr hp) hevent hends⟩

/-- Where the search loop returns, the answers it took end the run. -/
theorem searchLoop_ends {as : List RxAns} {s t : State} {r : SyncResult} (rx : List RxAns) (hp : s.ph = .scan)
    (hmc : s.mc.val < prefixLen s.fsmode) (ha : s.att ≠ s.msa) (hpc : s.pc = 0)
    (h : searchLoop s.fsmode as s = .returns r t) :
    ∃ used, as = used ++ t.rxAns ∧
      RunEnds used { s with rxAns := rx } (endRun (decide (r = .found)) { t with rxAns := rx, ret := s.ret }) := by
  induction as generalizing s with
  | nil => rw [searchLoop_nil hmc ha] at h; cases h
  | cons a as ih =>
    cases a with
    | fail =>
      rw [searchLoop_fail hmc ha] at h
      cases h
      exact ⟨[.fail], rfl, (rxFail_run (s := { s with rxAns := rx }) (.inl hp)) ▸ .last (.inl hp)⟩
    | byte b =>
      rw [searchLoop_byte hmc ha] at h
      have hevent := rxByte_scan (s := { s with rxAns := rx }) hp b
      have hnext : (nextMc s.fsmode s.mc b).val ≤ prefixLen s.fsmode := by
        obtain hn | hn := nextMc_cases hmc b <;> omega
      by_cases hfull : (nextMc s.fsmode s.mc b).val = prefixLen s.fsmode
      · rw [searchTests_matched hfull] at hevent
        have h := (searchLoop_matched (s := afterSearchByte b (s.takeRx (.byte b) as)) hfull.ge as).symm.trans h
        obtain ⟨used, rfl, hends⟩ := payloadLoop_ends
          (s := { afterSearchByte b (s.takeRx (.byte b) as) with ph := .pay }) rx rfl
          (show s.pc.val < payloadLen s.fsmode by rw [hpc]; exact payloadLen_pos s.fsmode) h
        refine ⟨.byte b :: used, rfl, .more (.inl hp) hevent ?_⟩
        rw [← hpc]
        exact hends
      · have hlt : (nextMc s.fsmode s.mc b).val < prefixLen s.fsmode := by omega
        by_cases hspent : s.cfg.narrow (s.att + 1) = s.msa
        · rw [searchTests_exhausted hfull hspent] at hevent
          have h := (searchLoop_exhausted (s := afterSearchByte b (s.takeRx (.byte b) as)) hlt hspent as).symm.trans h
          cases h
          exact ⟨[.byte b], rfl, hevent ▸ .last (.inl hp)⟩
        · rw [searchTests_searching hfull hspent] at hevent
          obtain ⟨used, rfl, hends⟩ := ih (s := afterSearchByte b (s.takeRx (.byte b) as)) hp hlt hspent hpc h
          exact ⟨.byte b :: used, rfl, .more (.inl hp) hevent hends⟩

/-- Where `Sync` returns, the answers it took end the run that `startRun` starts. -/
theorem runSync_ends {m : FsMode} {s t : State} {r : SyncResult} (rx : List RxAns) (ha : 1 ≤ s.msa)
    (h : runSync m s = .returns r t) :
    ∃ used, s.rxAns = used ++ t.rxAns ∧
      RunEnds used { startRun m s with rxAns := rx }
        (endRun (decide (r = .found)) { t with rxAns := rx, ret := s.ret }) :=
  searchLoop_ends (s := startRun m s) rx rfl (prefixLen_pos m) (Nat.ne_of_lt ha) rfl h

/-! A run that ends, at the grain of steps. -/

/-- At the byte grain a step in a run is the event of the next answer. -/
theorem step_rxEvent {a : RxAns} {as : List RxAns} {s : State} (hg : ByteGrain s) (hp : s.ph = .scan ∨ s.ph = .pay) :
    step ((withRx (a :: as)).on s) = rxEvent a ((withRx as).on s) := by
  have hn := noReset_of_byteGrain hg
  obtain ⟨hrst, -, hrb⟩ := hg
  have hpop : ({ (withRx (a :: as)).on s with rst := s.rst.tail, rxAns := as ++ s.rxAns } : State) =
      (withRx as).on s := by
    rw [withRx_on, withRx_on]; simp only [hrst]; rfl
  rw [← hpop]
  cases a with
  | byte b => exact step_rxByte (s := (withRx (.byte b :: as)).on s) hn hp hrb rfl
  | fail => exact step_rxFail (s := (withRx (.fail :: as)).on s) hn hp hrb rfl

theorem rxEvent_on (f : Unread) (s : State) (a : RxAns) : rxEvent a (f.on s) = onNext f.on (rxEvent a s) := by
  cases a with
  | byte b => exact Unread.rxByte_on f s b
  | fail => exact Unread.rxFail_on f s

/-- The machine takes the answers that end a run one step each. -/
theorem run_of_runEnds {as : List RxAns} {s : State} {o : Result} (h : RunEnds as s o) (hg : ByteGrain s) :
    core.run as.length ((withRx as).on s) = o := by
  induction h with
  | @last a s hp =>
    have hstep : core.step ((withRx [a]).on s) = rxEvent a s := (step_rxEvent hg hp).trans (by rw [withRx_on]; rfl)
    simp only [List.length_singleton, Host.Core.run, hstep]
    cases rxEvent a s <;> rfl
  | more hp hu _ ih =>
    rw [List.length_cons, run_succ ((step_rxEvent hg hp).trans (Unread.next_on (rxEvent_on _ · _) hu))]
    exact ih (byteGrain_next (rxEvent_on · · _) hg hu)

theorem callProc_returns {α : Type} {toRet : α → Ret} {o : ProcOut α} {t : State} (h : callProc toRet o = .next t)
    (hw : t.ret ≠ .waiting) : ∃ a s, o = .returns a s ∧ t = { s with ret := toRet a } := by
  cases o with
  | waits s => cases h; exact absurd rfl hw
  | returns a s => cases h; exact ⟨a, s, rfl, rfl⟩

/-- Settles O46: the answers that `Sync` took are the steps. -/
theorem syncIsTheSmallStepMachine : Obligations.SyncIsTheSmallStepMachine := by
  intro s t m r hg ha h hret
  obtain ⟨r', u, hrun, rfl⟩ := callProc_returns h (by rw [hret]; nofun)
  obtain rfl : r' = r := Ret.sync.inj hret
  obtain ⟨used, hused, hends⟩ := runSync_ends u.rxAns ha hrun
  refine ⟨used.length, ?_⟩
  have hsteps := run_of_runEnds hends hg
  rw [withRx_on, ← hused] at hsteps
  exact hsteps

end Sys2Proof.Proofs
end

section
/-! SUPPORT. A received frame handed over at once (20_memory.md R61, 40_frame_sync.md R135, R138): its magic bytes complete
the match, its payload ends the run, and the decoder reads the payload (43_decoder.md R231). -/

namespace Sys2Proof.Proofs

open Sys2Proof.Machine Sys2Proof.Claims

/-! Delivery of bytes in a run. -/

theorem deliver_wanted {s : State} (hp : s.ph = .scan ∨ s.ph = .pay) (b : Byte) (bs : List Byte) :
    deliver (b :: bs) s = andThen (rxByte b s) (deliver bs) := by
  have hw : s.rxWant = true := by simpa [State.rxWant] using hp
  rw [deliver, if_pos hw]

/-- Bytes that end a run, delivered at once, end it. -/
theorem deliver_of_runEnds {as : List RxAns} {s : State} {o : Result} (h : RunEnds as s o) {bs : List Byte}
    (hb : answers bs = as) : deliver bs s = o := by
  induction h generalizing bs with
  | last hp =>
    obtain ⟨b, rfl, rfl⟩ := List.map_eq_singleton_iff.mp hb
    rw [deliver_wanted hp, rxEvent]
    cases rxByte b _ <;> rfl
  | more hp hu _ ih =>
    obtain ⟨b, bs, rfl, rfl, hbs⟩ := List.map_eq_cons_iff.mp hb
    rw [deliver_wanted hp, show rxByte b _ = _ from hu]
    exact ih hbs

/-- Bytes of the search phase, the last of which completes the match within the budget. -/
theorem deliver_scanned {b : Byte} {bs cs : List Byte} {s : State} (hp : s.ph = .scan)
    (hs : Searching s.fsmode s.mc (b :: bs)) (hm : (mcAfter s.fsmode s.mc (b :: bs)).val = prefixLen s.fsmode)
    (ha : s.att + (b :: bs).length ≤ s.msa) (hw : s.msa < 2 ^ s.cfg.msaW) :
    deliver (b :: bs ++ cs) s = deliver cs { scanned (b :: bs) s with pc := 0, ph := .pay } := by
  induction bs generalizing s b with
  | nil =>
    rw [List.cons_append, deliver_wanted (.inl hp), rxByte_scan hp, searchTests_matched hm, ← scanned_cons ha hw]
    rfl
  | cons c bs ih =>
    obtain ⟨-, hs⟩ := hs
    simp only [List.length_cons] at ha
    have hlt : s.att < s.msa := by omega
    have hpart : (nextMc s.fsmode s.mc b).val < prefixLen s.fsmode := hs.1
    have hatt : (afterSearchByte b (s.observe (.rx s.devId (.byte b)))).att = s.att + 1 := narrow_succ hlt hw
    have hnext := ih (s := afterSearchByte b (s.observe (.rx s.devId (.byte b)))) hp hs hm
      (by rw [hatt]; show s.att + 1 + (bs.length + 1) ≤ s.msa; omega) hw
    rw [List.cons_append, deliver_wanted (.inl hp), rxByte_scan hp, searchTests_searching hpart.ne
      (by rw [hatt]; show s.att + 1 ≠ s.msa; omega), ← scanned_cons hlt hw]
    exact hnext

/-- The payload of a run, delivered at once. -/
theorem deliver_stored {p : List Byte} {pc : Fin 8} {s : State} (hp : s.ph = .pay)
    (hlt : s.pc.val < payloadLen s.fsmode) (hpc : pc.val = s.pc.val + p.length) (hN : pc.val = payloadLen s.fsmode) :
    deliver p s = endRun true (stored p pc s) := by
  have hloop := payloadLoop_stored (as := []) hpc
  rw [hN] at hloop
  obtain ⟨used, hused, hends⟩ := payloadLoop_ends (s := { s with rxAns := answers p ++ [] }) s.rxAns hp hlt hloop
  exact deliver_of_runEnds hends (by simpa using hused)

/-- A whole frame in a run that has matched nothing yet, with budget for the magic bytes. -/
theorem deliver_frame {m : FsMode} {p : List Byte} {s : State} {mc : Fin 4} {pc : Fin 8} (hp : s.ph = .scan)
    (hm : s.fsmode = m) (hmc0 : s.mc = 0) (hlen : p.length = payload m) (ha : s.att + (magic m).length ≤ s.msa)
    (hw : s.msa < 2 ^ s.cfg.msaW) (hmc : mc.val = (magic m).length) (hpc : pc.val = payload m) :
    deliver (magic m ++ p) s = endRun true
      { s with
        mc := mc, att := s.att + (magic m).length, pc := pc, pb := storeAt s.pb 0 p, ph := .pay
        hist := receivedObs s.devId (magic m ++ p) ++ s.hist } := by
  subst hm
  obtain ⟨hs, hmatch⟩ := magic_scanned (m := s.fsmode) (g := []) nofun (Nat.le_refl (magic s.fsmode).length)
  rw [List.take_length, List.nil_append, ← hmc0] at hs hmatch
  obtain rfl : mcAfter s.fsmode s.mc (magic s.fsmode) = mc := Fin.ext (hmatch.trans hmc.symm)
  rw [← prefixLen_eq_magic_length] at hmatch
  obtain ⟨b, bs, hb⟩ : ∃ b bs, magic s.fsmode = b :: bs := by cases s.fsmode <;> exact ⟨_, _, rfl⟩
  have hscan := deliver_scanned (cs := p) hp (hb ▸ hs) (hb ▸ hmatch) (hb ▸ ha) hw
  rw [← hb] at hscan
  have hstore := deliver_stored (p := p) (pc := pc) (s := { scanned (magic s.fsmode) s with pc := 0, ph := .pay }) rfl
    (payloadLen_pos s.fsmode) (hpc.trans (hlen.symm.trans (Nat.zero_add _).symm))
    (hpc.trans (payloadLen_eq_payload _).symm)
  rw [hscan, hstore, receivedObs_append, List.append_assoc]
  rfl

/-! The end of the run (R140). -/

theorem endRun_ack {s : State} (h : s.fsmode = .ack) (found : Bool) :
    endRun found s = stepResult (if found then statusOf s.pb[0] else .errorTransmission) s := by
  simp only [endRun, h, ackStatus_eq_statusOf]

theorem endRun_meas {s : State} (h : s.fsmode = .meas) (found : Bool) :
    endRun found s = .next (present (if found then decodeMeas s else { s with measValid := some false })) := by
  simp only [endRun, h]

/-- Settles O22: the four bytes are a frame of the run, whose end is the Status of the fourth. -/
theorem acknowledgmentsEndTheSendStep : Obligations.AcknowledgmentsEndTheSendStep := by
  intro s i st hi hp hm hmc hcx ha hw
  have hframe := deliver_frame (p := [st]) (mc := 3) (pc := 1) hp hm hmc rfl ha hw rfl rfl
  have hpb : storeAt s.pb 0 [st] = s.pb.set 0 st := by
    ext j hj; simp [storeAt, Vector.getElem_setIfInBounds, Vector.getElem_set]
  rw [hpb] at hframe
  obtain ⟨t, ht⟩ := stepResult_answers (statusOf st) (s := { s with
    mc := 3, att := s.att + 3, pc := 1, pb := s.pb.set 0 st, ph := .pay
    hist := receivedObs s.devId (ackBytes st) ++ s.hist }) hcx
  refine ⟨t, (exec_received hi s).trans (hframe.trans ((endRun_ack (by exact hm) true).trans ?_)), ht⟩
  rw [if_pos rfl, Vector.getElem_set_self]
  exact ht

/-! The decoder (43_decoder.md R231 to R238). -/

theorem payload_bytes (pb : Vector Byte 7) : ∃ b0 b1 b2 b3 b4 b5 b6, pb = #v[b0, b1, b2, b3, b4, b5, b6] := by
  refine ⟨pb[0], pb[1], pb[2], pb[3], pb[4], pb[5], pb[6], Vector.ext fun j hj => ?_⟩
  interval_cases j <;> rfl

/-- The checksum validator compares the sum of R235. -/
theorem checksumOk_eq (pb : Vector Byte 7) : checksumOk pb = decide (sumOf pb % 256 = pb[6].toNat) := by
  obtain ⟨b0, b1, b2, b3, b4, b5, b6, rfl⟩ := payload_bytes pb
  have hsum : sumOf #v[b0, b1, b2, b3, b4, b5, b6] = 0x59 + 0x59 + b0.toNat + b1.toNat + b2.toNat + b3.toNat +
      b4.toNat + b5.toNat := by
    show 0x59 + 0x59 + (0 + b0.toNat + b1.toNat + b2.toNat + b3.toNat + b4.toNat + b5.toNat) = _
    omega
  rw [checksumOk, hsum, Bool.beq_eq_decide_eq]
  rfl

/-- The sentinel is the distance with both bytes FF (R234). -/
theorem readingOf_eq_sentinel (pb : Vector Byte 7) : readingOf pb = sentinel ↔ pb[0] = 0xFF#8 ∧ pb[1] = 0xFF#8 := by
  simp only [← BitVec.toNat_inj, readingOf, toNat_half]
  have h0 := pb[0].isLt
  have h1 := pb[1].isLt
  have hs : sentinel.toNat = 65535 := rfl
  have hff : (0xFF#8).toNat = 255 := rfl
  omega

/-- The mode byte's class (R236, R237). -/
theorem classifyMode_cases (c : Config) (b : Byte) :
    (b ∈ modeShort c ∧ classifyMode c b = some true) ∨
    (b ∉ modeShort c ∧ b ∈ modeLong c ∧ classifyMode c b = some false) ∨
    (b ∉ modeShort c ∧ b ∉ modeLong c ∧ classifyMode c b = none) := by
  simp only [modeShort, modeLong, List.mem_cons, List.not_mem_nil, or_false, classifyMode]
  split
  · exact .inl ⟨‹_›, rfl⟩
  · split
    · exact .inr (.inl ⟨‹_›, ‹_›, rfl⟩)
    · exact .inr (.inr ⟨‹_›, ‹_›, rfl⟩)

/-- `Decode(PB)` is what R231 says of it. -/
theorem decoded_decodeMeas (s : State) : Decoded s (decodeMeas s) := by
  refine ⟨⟨_, rfl, ?_⟩, ⟨_, rfl, ?_⟩, ?_, ?_⟩
  · rw [readingOf, toNat_half, Nat.mul_comm]
  · rw [strengthOf, toNat_half, Nat.mul_comm]
  · rw [decodeMeas_ckOk, checksumOk_eq]
  · have hvalid : measValidOf s.cfg s.pb = true ↔ sumOf s.pb % 256 = s.pb[6].toNat ∧
        ¬ (s.pb[0] = 0xFF#8 ∧ s.pb[1] = 0xFF#8) ∧ (classifyMode s.cfg s.pb[4]).isSome = true := by
      rw [measValidOf, checksumOk_eq, Bool.and_eq_true, Bool.and_eq_true, decide_eq_true_iff, bne_iff_ne, Ne,
        readingOf_eq_sentinel, and_assoc]
    rw [decodeMeas_short, decodeMeas_measValid]
    obtain ⟨hmem, hc⟩ | ⟨hns, hl, hc⟩ | ⟨hns, hnl, hc⟩ := classifyMode_cases s.cfg s.pb[4] <;> rw [hc] at hvalid ⊢
    · exact ⟨fun _ => rfl, fun h => absurd hmem h, fun h => absurd hmem h, _, rfl, by simpa [hmem] using hvalid⟩
    · exact ⟨fun h => absurd h hns, fun _ _ => rfl, fun _ h => absurd hl h, _, rfl, by simpa [hl] using hvalid⟩
    · exact ⟨fun h => absurd h hns, fun _ h => absurd h hnl, fun _ _ => rfl, _, rfl, by simpa [hns, hnl] using hvalid⟩

/-- Settles O23: the nine bytes are a frame of the run, whose payload the decoder reads. -/
theorem measurementFramesAreDecoded : Obligations.MeasurementFramesAreDecoded := by
  intro s dLo dHi sLo sHi mode reserved ck hp hm hmc ha hw
  have hframe := deliver_frame (p := [dLo, dHi, sLo, sHi, mode, reserved, ck]) (mc := 2) (pc := 7) hp hm hmc rfl ha hw
    rfl rfl
  have hpb : storeAt s.pb 0 [dLo, dHi, sLo, sHi, mode, reserved, ck] = #v[dLo, dHi, sLo, sHi, mode, reserved, ck] := by
    obtain ⟨b0, b1, b2, b3, b4, b5, b6, h⟩ := payload_bytes s.pb
    rw [h]; rfl
  rw [hpb] at hframe
  refine ⟨_, hframe.trans (endRun_meas (by exact hm) true), rfl, ?_, rfl⟩
  exact decoded_decodeMeas _

end Sys2Proof.Proofs
end

section
/-! SUPPORT. A bracket whose enter frames are never acknowledged (95_test_vectors.md S5, 41_command_fsm.md R170, R174): each
attempt sends the frame, reads MSA bytes and retries or gives up. -/

namespace Sys2Proof.Proofs

open Sys2Proof.Machine Sys2Proof.Claims

/-- Running n steps and then k. -/
theorem run_add {n : Nat} {s m : State} (h : core.run n s = .next m) (k : Nat) :
    core.run (n + k) s = core.run k m := by
  induction n generalizing s with
  | zero => cases h; rw [Nat.zero_add]
  | succ n ih =>
    rw [Nat.succ_add]
    cases hs : step s with
    | next u => rw [run_succ hs] at h ⊢; exact ih h
    | fault f => cases f
    | refused r =>
      have hc : core.step s = .refused r := hs
      simp only [Host.Core.run, hc] at h
      cases h

/-! The frame. -/

/-- The rest of a frame, and the start of its run (41_command_fsm.md R165, R166, R168). -/
theorem sendRest_listens {s : State} (hp : s.ph = .tx) (hx : ¬ (s.cx = .exitPending ∧ s.cfg.exitAckScan = false)) :
    sendRest (8 - s.txi.val) s = .next (startRun .ack { s with txi := 7, hist := frameSent s ++ s.hist }) := by
  have hlast : ∀ i : Fin 8, byteIndexes.drop i.val = (byteIndexes.drop i.val).take (7 - i.val) ++ [7] := by decide
  have hsent : frameSent s = .tx s.devId (s.ctByte s.kind 7) .done ::
      (((byteIndexes.drop s.txi.val).take (7 - s.txi.val)).map
        fun j => Obs.tx s.devId (s.ctByte s.kind j) .done).reverse := by
    conv_lhs => rw [frameSent, hlast, List.map_append, List.reverse_append]
    rfl
  rw [sendRest_tx hp, txDone_tx (by exact hp), byteSent, if_neg (by exact Nat.lt_irrefl 7), if_neg (by exact hx), hsent]
  rfl

/-- At the byte grain the rest of a frame that the transport takes is one step for each byte. -/
theorem run_frame {s : State} {txs : List TxAns} (hg : ByteGrain s) (hp : s.ph = .tx)
    (hx : ¬ (s.cx = .exitPending ∧ s.cfg.exitAckScan = false)) (ht : s.txAns = taken (8 - s.txi.val) ++ txs) :
    core.run (8 - s.txi.val) s =
      .next (startRun .ack { s with txAns := txs, txi := 7, hist := frameSent s ++ s.hist }) := by
  have hrun := run_of_sendRest (s := { s with txAns := txs }) hg (sendRest_listens (s := { s with txAns := txs }) hp hx)
  have hs : (withTx (taken (8 - s.txi.val))).on { s with txAns := txs } = s := by rw [withTx_on, ← ht]
  rw [hs] at hrun
  exact hrun

/-! The run. -/

/-- Bytes without the first magic byte, as many as the budget allows, end an ACK run as ErrorTransmission (R137, R141). -/
theorem run_unanswered {s : State} {g : List Byte} {rxs : List RxAns} (hg : ByteGrain s) (ha : 1 ≤ s.msa)
    (hw : s.msa < 2 ^ s.cfg.msaW) (hlen : g.length = s.msa) (hgarb : ∀ b ∈ g, b ≠ 0x42#8)
    (hr : s.rxAns = answers g ++ rxs) :
    core.run s.msa (startRun .ack s) =
      stepResult .errorTransmission { scanned g (startRun .ack s) with rxAns := rxs } := by
  obtain ⟨hs, hmc⟩ := garbage_scanned (m := .ack) (g := g) fun b hb he => hgarb b hb (Option.some.inj he).symm
  have hsync := runSync_exhausted hr hs (by rw [hmc]; exact prefixLen_pos .ack) hlen hw
  obtain ⟨used, hused, hends⟩ := runSync_ends rxs ha hsync
  rw [hr] at hused
  obtain rfl := List.append_cancel_right hused
  have hrun := run_of_runEnds hends hg
  have hstart : (withRx (answers g)).on { startRun .ack s with rxAns := rxs } = startRun .ack s := by
    rw [withRx_on, ← hr]; rfl
  rw [hstart, answers, List.length_map, hlen] at hrun
  exact hrun.trans (endRun_ack (by rfl) false)

/-! The entry attempts (R163, R170). -/

theorem stepResult_retry {r : Status} {s : State} (hc : s.cx = .enterPending) (hr : r ≠ .success)
    (ht : s.tries.val < 3) : stepResult r s = .next (startFrame .enter { s with tries := s.tries + 1 }) := by
  simp [stepResult, hc, hr, enterTries, ht]

theorem stepResult_giveUp {r : Status} {s : State} (hc : s.cx = .enterPending) (hr : r ≠ .success)
    (ht : s.tries.val = 3) : stepResult r s = .next (finish .errorTransmission { s with cx := .failed }) := by
  simp [stepResult, hc, hr, enterTries, ht]

/-- A failed bracket is answered with ErrorTransmission, in both stages (R173). -/
theorem finish_errorTransmission (s : State) : finish .errorTransmission s = respond .errorTransmission s := by
  obtain ⟨-, -, hst, -⟩ | ⟨st, h, hst⟩ := finish_outcome .errorTransmission s
  · cases hst
  · rw [h, hst rfl]

theorem txStream_append {s t : State} {new : List Obs} (h : t.hist = new ++ s.hist) :
    txStream t = txStream s ++ txStream { s with hist := new } := by
  simp [txStream, h]

theorem txStream_receivedObs (s : State) (dev : Nat) (bs : List Byte) :
    txStream { s with hist := receivedObs dev bs } = [] := by
  simp [txStream, receivedObs]

theorem txStream_frameSent {s : State} (h0 : s.txi = 0) :
    txStream { s with hist := frameSent s } = (s.template s.kind).toList := by
  obtain ⟨b0, b1, b2, b3, b4, b5, b6, b7, h⟩ := template_bytes (s.template s.kind)
  simp [txStream, frameSent, h0, byteIndexes, ← template_getElem, h]

/-- s after a frame that is taken and the bytes g read in its run. -/
def unanswered (g : List Byte) (txs : List TxAns) (rxs : List RxAns) (s : State) : State :=
  { scanned g (startRun .ack { s with txAns := txs, txi := 7, hist := frameSent s ++ s.hist }) with rxAns := rxs }

theorem txStream_unanswered {s : State} (h0 : s.txi = 0) (g : List Byte) (txs : List TxAns) (rxs : List RxAns) :
    txStream (unanswered g txs rxs s) = txStream s ++ (s.template s.kind).toList := by
  have hsent : txStream { s with hist := frameSent s ++ s.hist } = txStream s ++ (s.template s.kind).toList :=
    (txStream_append rfl).trans (by rw [txStream_frameSent h0])
  rw [← hsent, txStream_append (t := unanswered g txs rxs s) (s := { s with hist := frameSent s ++ s.hist })
    (new := receivedObs s.devId g) rfl, txStream_receivedObs, List.append_nil]

/-- An enter frame is offered from its byte 0, and n more attempts may follow the one it is for. -/
structure Entering (n : Nat) (s : State) : Prop where
  grain : ByteGrain s
  ph : s.ph = .tx
  cx : s.cx = .enterPending
  kind : s.kind = .enter
  txi : s.txi = 0
  tries : s.tries.val + n = 3

/-- One attempt that is not acknowledged. -/
theorem run_attempt {n : Nat} {s : State} {g : List Byte} {txs : List TxAns} {rxs : List RxAns} (h : Entering n s)
    (ha : 1 ≤ s.msa) (hw : s.msa < 2 ^ s.cfg.msaW) (ht : s.txAns = taken 8 ++ txs) (hlen : g.length = s.msa)
    (hgarb : ∀ b ∈ g, b ≠ 0x42#8) (hr : s.rxAns = answers g ++ rxs) :
    core.run (8 + s.msa) s = stepResult .errorTransmission (unanswered g txs rxs s) := by
  have hframe := run_frame (txs := txs) h.grain h.ph (by rw [h.cx]; nofun) (by rw [h.txi]; exact ht)
  rw [h.txi] at hframe
  refine (run_add (n := 8) hframe s.msa).trans ?_
  exact run_unanswered (s := { s with txAns := txs, txi := 7, hist := frameSent s ++ s.hist }) h.grain ha hw hlen hgarb hr

/-- s after an unacknowledged attempt that another one follows. -/
def retried (g : List Byte) (txs : List TxAns) (rxs : List RxAns) (s : State) : State :=
  startFrame .enter { unanswered g txs rxs s with tries := s.tries + 1 }

theorem entering_retried {n : Nat} {s : State} (h : Entering (n + 1) s) (g : List Byte) (txs : List TxAns)
    (rxs : List RxAns) : Entering n (retried g txs rxs s) where
  grain := h.grain
  ph := rfl
  cx := h.cx
  kind := rfl
  txi := rfl
  tries := by
    have htries := h.tries
    show (s.tries + 1).val + n = 3
    rw [Fin.val_add_one_of_lt' (by omega)]
    omega

theorem frameBytes_congr {s t : State} (h : t.ct = s.ct) (ks : List Kind) : frameBytes t ks = frameBytes s ks := by
  simp only [frameBytes, State.template, h]

theorem frameBytes_cons (s : State) (k : Kind) (ks : List Kind) :
    frameBytes s (k :: ks) = (s.template k).toList ++ frameBytes s ks := by
  simp only [frameBytes, List.map_cons, List.flatten_cons]

/-- From s an unacknowledged bracket ended in t, after so many enter frames (R170, R174). -/
structure GaveUp (s : State) (frames : Nat) (txs : List TxAns) (rxs : List RxAns) (t : State) : Prop where
  ph : t.ph = .rsp
  cx : t.cx = .failed
  status : t.rspStatus = some .errorTransmission
  txAns : t.txAns = txs
  rxAns : t.rxAns = rxs
  ct : t.ct = s.ct
  sent : txStream t = txStream s ++ frameBytes s (List.replicate frames .enter)

/-- The last attempt. -/
theorem gaveUp_last {s : State} (h : Entering 0 s) (g : List Byte) (txs : List TxAns) (rxs : List RxAns) :
    GaveUp s 1 txs rxs (respond .errorTransmission { unanswered g txs rxs s with cx := .failed }) where
  ph := rfl
  cx := rfl
  status := rfl
  txAns := rfl
  rxAns := rfl
  ct := rfl
  sent := (txStream_unanswered h.txi g txs rxs).trans (by simp [h.kind, frameBytes])

/-- One attempt before the others. -/
theorem gaveUp_retried {n k : Nat} {s t : State} {g : List Byte} {txs' txs : List TxAns} {rxs' rxs : List RxAns}
    (h : Entering n s) (ht : GaveUp (retried g txs' rxs' s) k txs rxs t) : GaveUp s (k + 1) txs rxs t where
  ph := ht.ph
  cx := ht.cx
  status := ht.status
  txAns := ht.txAns
  rxAns := ht.rxAns
  ct := ht.ct
  sent := by
    have hsent : txStream (retried g txs' rxs' s) = txStream s ++ (s.template .enter).toList :=
      h.kind ▸ txStream_unanswered h.txi g txs' rxs'
    rw [ht.sent, hsent, List.replicate_succ, frameBytes_cons, List.append_assoc,
      frameBytes_congr (s := s) (t := retried g txs' rxs' s) rfl]

/-- This attempt and the n more that may follow, none acknowledged, end in Failed (R170, R174). -/
theorem entries_giveUp {n : Nat} {s : State} {g : List Byte} {txs : List TxAns} {rxs : List RxAns} (h : Entering n s)
    (ha : 1 ≤ s.msa) (hw : s.msa < 2 ^ s.cfg.msaW) (ht : s.txAns = taken (8 * (n + 1)) ++ txs)
    (hlen : g.length = (n + 1) * s.msa) (hgarb : ∀ b ∈ g, b ≠ 0x42#8) (hr : s.rxAns = answers g ++ rxs) :
    ∃ t, core.run ((n + 1) * (8 + s.msa)) s = .next t ∧ GaveUp s (n + 1) txs rxs t := by
  induction n generalizing s g with
  | zero =>
    have hrun := run_attempt h ha hw ht (by omega) hgarb hr
    rw [stepResult_giveUp (r := .errorTransmission) (s := unanswered g txs rxs s) h.cx nofun h.tries,
      finish_errorTransmission] at hrun
    refine ⟨_, ?_, gaveUp_last h g txs rxs⟩
    rw [Nat.zero_add, Nat.one_mul]
    exact hrun
  | succ n ih =>
    have hsplit : answers g = answers (g.take s.msa) ++ answers (g.drop s.msa) := by
      rw [← answers_append, List.take_append_drop]
    have htaken : taken (8 * (n + 1 + 1)) = taken 8 ++ taken (8 * (n + 1)) := by
      rw [taken, Nat.mul_succ, Nat.add_comm, List.replicate_add]; rfl
    rw [hsplit, List.append_assoc] at hr
    rw [htaken, List.append_assoc] at ht
    rw [Nat.succ_mul] at hlen
    have htries := h.tries
    have hrun := run_attempt h ha hw ht (by rw [List.length_take]; omega)
      (fun b hb => hgarb b (List.mem_of_mem_take hb)) hr
    rw [stepResult_retry (r := .errorTransmission) (s := unanswered _ _ _ s) h.cx nofun
      (show s.tries.val < 3 by omega)] at hrun
    have hleft : (g.drop s.msa).length = (n + 1) * s.msa := by rw [List.length_drop]; omega
    obtain ⟨t, hnext, hend⟩ := ih
      (entering_retried h (g.take s.msa) (taken (8 * (n + 1)) ++ txs) (answers (g.drop s.msa) ++ rxs)) ha hw rfl hleft
      (fun b hb => hgarb b (List.mem_of_mem_drop hb)) rfl
    refine ⟨t, ?_, gaveUp_retried h hend⟩
    rw [Nat.succ_mul, Nat.add_comm]
    exact (run_add hrun _).trans hnext

/-- A request that runs a bracket starts it in its Req step: the registers of the request and of the bracket's start are
written, the table and the stage as the setter does. -/
theorem exec_starts_bracket {i : Instr} {op : BitVec 4} {arg : Half} {s : State} (hi : reqOp i = some (op, arg))
    (hb : brackets i ≠ []) (hp : s.ph = .idle) :
    ∃ op' arg' k stage ct, exec i s = .next (bracketStart k { acceptReq op' arg' s with stage := stage, ct := ct }) := by
  obtain ⟨k, ks, hk⟩ := List.exists_cons_of_ne_nil hb
  obtain ⟨op', arg', valid, write, hexec, rfl, -⟩ := exec_of_brackets hk
  have hstart : exec i s = .next (bracketStart k (write (acceptReq op' arg' s))) := by
    rw [hexec]; exact if_pos hp
  have hreq := hstart
  rw [← decodeReqWord_reqWord hi] at hreq
  have hform := request_cases (P := fun t => t.ph = .tx → ∃ op' arg' k stage ct,
    t = bracketStart k { acceptReq op' arg' s with stage := stage, ct := ct }) hreq hp nofun nofun nofun
    (fun _ _ _ _ _ => ⟨_, _, _, _, _, rfl⟩) (fun _ _ _ _ _ => ⟨_, _, _, _, _, rfl⟩) (fun _ _ => ⟨_, _, _, _, _, rfl⟩)
    (fun _ _ => ⟨_, _, _, _, _, rfl⟩) (fun _ _ _ _ _ => ⟨_, _, _, _, _, rfl⟩) nofun rfl
  obtain ⟨op', arg', k, stage, ct, ht⟩ := hform
  exact ⟨op', arg', k, stage, ct, ht ▸ hstart⟩

/-- Settles O59: the Req step, and three attempts of eight bytes sent and MSA read. -/
theorem unacknowledgedCommandsFail : Obligations.UnacknowledgedCommandsFail := by
  intro s i op arg rest txs g rxs hg hp ha hw hi hb hreq ht hlen hgarb hr
  obtain ⟨op', arg', k, stage, ct, hstart⟩ :=
    exec_starts_bracket (s := { s with rst := s.rst.tail, reqs := rest }) hi hb hp
  have hstep := stepRunsThePendingRequest s _ rest (noReset_of_byteGrain hg) hp hreq
  rw [word_eq_reqWord, decodeReqWord_reqWord hi, hstart] at hstep
  obtain ⟨hrst, htb, hrb⟩ := hg
  obtain ⟨t, hrun, hend⟩ := entries_giveUp (n := 2)
    (s := bracketStart k { acceptReq op' arg' { s with rst := s.rst.tail, reqs := rest } with stage := stage, ct := ct })
    { grain := ⟨congrArg List.tail hrst, htb, hrb⟩, ph := rfl, cx := rfl, kind := rfl, txi := rfl, tries := rfl }
    ha hw ht hlen hgarb hr
  refine ⟨t, ?_, hend.ph, hend.cx, hend.status, hend.txAns, hend.rxAns, ?_⟩
  · have hn : 25 + 3 * s.msa = 3 * (8 + s.msa) + 1 := by omega
    rw [hn, run_succ hstep]
    exact hrun
  · rw [hend.sent, frameBytes_congr hend.ct]
    rfl

end Sys2Proof.Proofs
end

section
/-! SUPPORT. The frame on the TX port and the Status it earns (41_command_fsm.md R165 to R173): what the executor does
after a byte taken, after a Status and at the end of a bracket, and the obligations that say so. -/

namespace Sys2Proof.Proofs

open Sys2Proof.Machine Sys2Proof.Claims

/-! After a byte the transport took (R166). -/

theorem byteSent_more {s : State} (h : s.txi.val < 7) : byteSent s = .next { s with txi := s.txi + 1 } := if_pos h

theorem byteSent_unscanned {s : State} (h : s.txi.val = 7) (hc : s.cx = .exitPending) (hx : s.cfg.exitAckScan = false) :
    byteSent s = stepResult .success s := (if_neg h.not_lt).trans (if_pos ⟨hc, hx⟩)

theorem byteSent_listens {s : State} (h : s.txi.val = 7) (hx : ¬ (s.cx = .exitPending ∧ s.cfg.exitAckScan = false)) :
    byteSent s = .next (startRun .ack s) := (if_neg h.not_lt).trans (if_neg hx)

/-- Settles O28: the three cases of R166, and R167. -/
theorem txAnswersMoveTheFrame : Obligations.TxAnswersMoveTheFrame := by
  intro s hp
  rw [txDone_tx hp]
  refine ⟨fun j hlt hj => ?_, fun h hc hx => byteSent_unscanned h hc hx, fun h hx => byteSent_listens h hx,
    txFail_tx hp⟩
  obtain rfl : s.txi + 1 = j := Fin.ext ((Fin.val_add_one_of_lt' (by omega)).trans hj.symm)
  exact byteSent_more (s := s.observe _) hlt

/-! The Status of a send-and-acknowledge step (R170 to R172). -/

/-- NOEXIT in the model and in the claims (R175). -/
theorem noExit_eq (c : Kind) : noExit c = c.noExit := by cases c <;> rfl

theorem stepResult_entered {s : State} (hc : s.cx = .enterPending) :
    stepResult .success s = .next (startFrame s.cmd { s with cx := .commandSent }) := by
  simp only [stepResult, hc, if_true]

theorem stepResult_commandDone {s : State} (hc : s.cx = .commandSent) (hk : s.cmd.noExit = true) (r : Status) :
    stepResult r s = .next (finish r { s with stat := r, cx := .done }) := by
  simp only [stepResult, hc, hk, if_true]

theorem stepResult_commandExit {s : State} (hc : s.cx = .commandSent) (hk : s.cmd.noExit = false) (r : Status) :
    stepResult r s = .next (startFrame .exit { s with stat := r, cx := .exitPending }) := by
  simp only [stepResult, hc, hk, Bool.false_eq_true, if_false]

theorem stepResult_exitDone {s : State} (hc : s.cx = .exitPending) (r : Status) :
    stepResult r s = .next (finish s.stat { s with cx := .done }) := by
  simp only [stepResult, hc]

/-- Settles O29: by CX, and in EnterPending by the Status and TRY. -/
theorem stepResultByCx : Obligations.StepResultByCx := by
  refine fun s r => ⟨fun hc => ⟨?_, fun n hr ht hn => ?_, fun hr ht => stepResult_giveUp hc hr ht⟩,
    fun hc => ⟨fun hk => stepResult_commandDone hc (noExit_eq _ ▸ hk) r,
      fun hk => stepResult_commandExit hc (noExit_eq _ ▸ hk) r⟩, fun hc => stepResult_exitDone hc r⟩
  · rintro rfl
    exact stepResult_entered hc
  · obtain rfl : s.tries + 1 = n := Fin.ext ((Fin.val_add_one_of_lt' (by omega)).trans hn.symm)
    exact stepResult_retry hc hr ht

/-! A whole frame (R165). -/

/-- The rest of a frame, taken as one buffer call: every byte from TXI on is recorded, and what follows is what follows
byte 7. -/
theorem sendRest_lastByte {s : State} (hp : s.ph = .tx) :
    sendRest (8 - s.txi.val) s = byteSent { s with txi := 7, hist := frameSent s ++ s.hist } := by
  have hlast : ∀ i : Fin 8, byteIndexes.drop i.val = (byteIndexes.drop i.val).take (7 - i.val) ++ [7] := by decide
  conv_rhs => rw [frameSent, hlast, List.map_append, List.reverse_append]
  rw [sendRest_tx hp, txDone_tx (by exact hp)]
  rfl

/-- A command frame that CT[KIND] holds is the one on the TX port. -/
theorem exec_frameOnThePort {s : State} {i : Instr} (hp : s.ph = .tx)
    (hi : cmdFrame s.cfg i = some (s.kind, s.template s.kind)) : exec i s = sendRest (8 - s.txi.val) s := by
  rw [← exec_offeredFrame hp, ← cmdInstr_cmdFrame hi]
  rfl

/-- Settles O25: byte 7 starts the ACK run. -/
theorem commandFramesAreSentWhole : Obligations.CommandFramesAreSentWhole := fun s i hp hi hx => by
  rw [exec_frameOnThePort hp hi, sendRest_listens hp hx]
  rfl

/-- Settles O26: byte 7 of the exit frame is a Success of the exit step. -/
theorem exitFrameWithoutScanEndsTheBracket : Obligations.ExitFrameWithoutScanEndsTheBracket := fun s i hp hi hc hx => by
  rw [exec_frameOnThePort hp hi, sendRest_lastByte hp, byteSent_unscanned (by rfl) (by exact hc) (by exact hx)]
  exact stepResult_exitDone (by exact hc) .success

/-! The end of a bracket (R173). -/

theorem finish_stageFailed {s : State} {st : Status} (hop : s.op = 6#4) (hs : s.stage = .pattern)
    (hst : st ≠ .success) : finish st s = respond .errorTransmission s := (if_pos ⟨hop, hs⟩).trans (if_neg hst)

theorem finish_responds {s : State} (h : ¬ (s.op = 6#4 ∧ s.stage = .pattern)) (st : Status) :
    finish st s = respond st s := if_neg h

/-- Stage 1 writes `ARG[7:0]` to byte 6 of the mode template (42_setters.md R199). -/
theorem ctByte_startModeStage (s : State) (k : Kind) (j : Fin 8) :
    (startModeStage s).ctByte k j = if k = .mode ∧ j = 6 then BitVec.ofNat 8 s.arg.toNat else s.ctByte k j := by
  have hbyte : loByte s.arg = BitVec.ofNat 8 s.arg.toNat :=
    BitVec.eq_of_toNat_eq (by rw [toNat_loByte, BitVec.toNat_ofNat])
  simp only [← hbyte, eq_comm (a := k), eq_comm (a := j)]
  exact ctByte_packSel { s with stage := .mode } .mode k s.arg j

/-- Settles O30: by operation, stage and Status. -/
theorem finishEndsTheBracket : Obligations.FinishEndsTheBracket := by
  refine fun s st => ⟨?_, finish_stageFailed, fun h => finish_responds h st⟩
  rintro hop hs rfl
  exact ⟨_, finish_success_patternStage hop hs, rfl, ctByte_startModeStage s⟩

end Sys2Proof.Proofs
end

section
/-! SUPPORT. `Exec` where every frame is taken and acknowledged at once (41_command_fsm.md R162): each
send-and-acknowledge step sends one template and returns the Status of the status byte. -/

namespace Sys2Proof.Proofs

open Sys2Proof.Machine Sys2Proof.Claims

/-! Exchanges. -/

/-- The budget covers an acknowledgment's magic bytes, and MSA fits its register. -/
def AckBudget (s : State) : Prop := 3 ≤ s.msa ∧ s.msa < 2 ^ s.cfg.msaW

/-- From s to u the frames of the kinds ks were taken whole, and what was scanned for was acknowledged at once: the
ports are left with the answers `txs` and `rest`. Besides the registers of the transfers only CX, TRY and KIND may have
changed. -/
structure Exchanged (s : State) (ks : List Kind) (txs : List TxAns) (rest : List RxAns) (u : State) : Prop where
  frame : u = { s with
    cx := u.cx, tries := u.tries, kind := u.kind, txi := 7, ph := u.ph, fsmode := .ack, mc := 3, att := 3, pc := 1
    pb := u.pb, txAns := txs, rxAns := rest, hist := u.hist }
  sent : txStream u = txStream s ++ frameBytes s ks

theorem frameBytes_append (s : State) (ks ks' : List Kind) :
    frameBytes s (ks ++ ks') = frameBytes s ks ++ frameBytes s ks' := by
  simp only [frameBytes, List.map_append, List.flatten_append]

namespace Exchanged

variable {s u v : State} {ks ks' : List Kind} {txs txs' : List TxAns} {rest rest' : List RxAns}

theorem txAns (h : Exchanged s ks txs rest u) : u.txAns = txs := by rw [h.frame]
theorem rxAns (h : Exchanged s ks txs rest u) : u.rxAns = rest := by rw [h.frame]
theorem exitAckScan (h : Exchanged s ks txs rest u) : u.cfg.exitAckScan = s.cfg.exitAckScan := by rw [h.frame]
theorem ct (h : Exchanged s ks txs rest u) : u.ct = s.ct := by rw [h.frame]

theorem budget (h : Exchanged s ks txs rest u) (hb : AckBudget s) : AckBudget u := by
  rw [h.frame]; exact hb

/-- `Exec` writes CX and TRY between the exchanges. -/
theorem registers (h : Exchanged s ks txs rest u) (cx : Cx) (tries : Fin 4) :
    Exchanged s ks txs rest { u with cx := cx, tries := tries } where
  frame := by conv_lhs => rw [h.frame]
  sent := h.sent

/-- STAT is written after an exchange and read by none. -/
theorem setStat (h : Exchanged s ks txs rest u) (stat : Status) :
    Exchanged { s with stat := stat } ks txs rest { u with stat := stat } where
  frame := by conv_lhs => rw [h.frame]
  sent := h.sent

theorem trans (h : Exchanged s ks txs rest u) (h' : Exchanged u ks' txs' rest' v) :
    Exchanged s (ks ++ ks') txs' rest' v where
  frame := h'.frame.trans (by rw [h.frame])
  sent := by rw [h'.sent, h.sent, frameBytes_congr h.ct, List.append_assoc, frameBytes_append]

end Exchanged

/-! One send-and-acknowledge step. -/

/-- The frame from the byte i on, with n more bytes to follow it, sends the byte i first. -/
theorem frameSent_first (s : State) {n : Nat} (hn : n < 7) :
    frameSent { s with txi := Fin.ofNat 8 (7 - (n + 1)) } =
      frameSent { s with txi := Fin.ofNat 8 (7 - n) } ++
        [.tx s.devId (s.ctByte s.kind (Fin.ofNat 8 (7 - (n + 1)))) .done] := by
  have hdrop : ∀ n : Fin 7, byteIndexes.drop (Fin.ofNat 8 (7 - (n.val + 1))).val =
      Fin.ofNat 8 (7 - (n.val + 1)) :: byteIndexes.drop (Fin.ofNat 8 (7 - n.val)).val := by decide
  rw [frameSent, hdrop ⟨n, hn⟩, List.map_cons, List.reverse_cons]
  rfl

/-- The loop of `SendFrame` whose bytes are taken. -/
theorem sendLoop_taken {n : Nat} {s : State} {txs : List TxAns} (hn : n < 8) :
    sendLoop (n + 1) { s with txAns := taken (n + 1) ++ txs } = .returns true
      { s with txi := 7, txAns := txs, hist := frameSent { s with txi := Fin.ofNat 8 (7 - n) } ++ s.hist } := by
  induction n generalizing s with
  | zero => rfl
  | succ n ih =>
    have hnext := ih (s := { s with txi := Fin.ofNat 8 (7 - (n + 1)) }.takeTx .done s.txAns) (by omega)
    refine hnext.trans ?_
    rw [frameSent_first s (by omega), List.append_assoc]
    rfl

/-- `SendFrame` whose eight bytes are taken. -/
theorem runSendFrame_taken {k : Kind} {s : State} {txs : List TxAns} (ht : s.txAns = taken 8 ++ txs) :
    runSendFrame k s = .returns true
      { s with
        kind := k, ph := .tx, txi := 7, txAns := txs, hist := frameSent { s with kind := k, txi := 0 } ++ s.hist } := by
  have hsend := sendLoop_taken (n := 7) (s := { s with kind := k, ph := .tx }) (txs := txs) (by omega)
  rw [← ht] at hsend
  exact hsend

/-- s after a frame of kind k that is taken whole and acknowledged with status byte st. -/
def acknowledged (k : Kind) (st : Byte) (txs : List TxAns) (rest : List RxAns) (s : State) : State :=
  { s with
    kind := k, txi := 7, ph := .pay, fsmode := .ack, mc := 3, att := 3, pc := 1, pb := storeAt s.pb 0 [st]
    txAns := txs, rxAns := rest
    hist := receivedObs s.devId (ackBytes st) ++ (frameSent { s with kind := k, txi := 0 } ++ s.hist) }

theorem txStream_frame (k : Kind) (s : State) :
    txStream { s with hist := frameSent { s with kind := k, txi := 0 } ++ s.hist } =
      txStream s ++ frameBytes s [k] := by
  rw [txStream_append rfl]
  exact congrArg _ ((txStream_frameSent (s := { s with kind := k, txi := 0 }) rfl).trans (List.append_nil _).symm)

theorem exchanged_acknowledged (k : Kind) (st : Byte) (txs : List TxAns) (rest : List RxAns) (s : State) :
    Exchanged s [k] txs rest (acknowledged k st txs rest s) where
  frame := rfl
  sent := by
    rw [← txStream_frame, txStream_append (t := acknowledged k st txs rest s)
      (s := { s with hist := frameSent { s with kind := k, txi := 0 } ++ s.hist }) rfl, txStream_receivedObs,
      List.append_nil]

/-- `SendAndAck` whose frame is taken and acknowledged at once. -/
theorem runSendAndAck_acknowledged {s : State} {st : Byte} {txs : List TxAns} {rest : List RxAns} (hb : AckBudget s)
    (ht : s.txAns = taken 8 ++ txs) (hr : s.rxAns = answers (ackBytes st) ++ rest) (k : Kind) :
    runSendAndAck k s = .returns (statusOf st) (acknowledged k st txs rest s) := by
  obtain ⟨ha, hw⟩ := hb
  have hfound := runSync_found (m := .ack) (g := []) (p := [st]) (mc := 3) (pc := 1) (rest := rest)
    (s := { s with
      kind := k, ph := .tx, txi := 7, txAns := txs, hist := frameSent { s with kind := k, txi := 0 } ++ s.hist })
    nofun rfl ha hw hr rfl rfl
  have hst : (storeAt s.pb 0 [st])[0] = st := by simp [storeAt]
  rw [runSendAndAck, runSendFrame_taken ht]
  exact (runSyncAck_found hfound).trans
    (congrArg (fun b => ProcOut.returns (statusOf b) (acknowledged k st txs rest s)) hst)

/-! The entry attempts (R163). -/

theorem statusOf_eq_success (st : Byte) : statusOf st = .success ↔ st = 0x01#8 := by
  rw [← ackStatus_eq_statusOf, ackStatus]
  split
  · simp [*]
  · simp only [*, iff_false]
    split
    · nofun
    · split <;> nofun

/-- One attempt that returns. -/
theorem enterLoop_returns {n : Nat} {r : Status} {s u : State}
    (h : runSendAndAck .enter { s with tries := s.tries + 1 } = .returns r u) :
    enterLoop (n + 1) s = if r = .success then .returns true u else enterLoop n u := by
  rw [enterLoop, h]
  cases r with
  | success | errorInstruction | errorParameter | errorTransmission => rfl

/-- One attempt that is acknowledged, with Success or not. -/
theorem enterLoop_acknowledged {n : Nat} {s : State} {st : Byte} {txs : List TxAns} {rest : List RxAns}
    (hb : AckBudget s) (ht : s.txAns = taken 8 ++ txs) (hr : s.rxAns = answers (ackBytes st) ++ rest) :
    ∃ u, enterLoop (n + 1) s = (if st = 0x01#8 then .returns true u else enterLoop n u) ∧
      Exchanged s [.enter] txs rest u ∧ u.tries = s.tries + 1 ∧ u.kind = .enter := by
  refine ⟨_, ?_, (exchanged_acknowledged .enter st txs rest s).registers s.cx (s.tries + 1), rfl, rfl⟩
  simp only [← statusOf_eq_success]
  exact enterLoop_returns (runSendAndAck_acknowledged (s := { s with tries := s.tries + 1 }) hb ht hr .enter)

/-- Settles O44: three attempts, none acknowledged with Success. -/
theorem execGivesUpAfterThreeEntries : Obligations.ExecGivesUpAfterThreeEntries := by
  intro s c a b d txs rest hc ha hb hd h3 hw ht hr
  obtain ⟨u, hu, hsu, hut, -⟩ := enterLoop_acknowledged (n := 2) (st := a) (txs := taken 16 ++ txs)
    (rest := answers (ackBytes b ++ ackBytes d) ++ rest) (s := { s with cmd := c, cx := .enterPending, tries := 0 })
    ⟨h3, hw⟩ ht hr
  have hbudget := hsu.budget ⟨h3, hw⟩
  obtain ⟨v, hv, huv, hvt, -⟩ := enterLoop_acknowledged (n := 1) (st := b) (txs := taken 8 ++ txs)
    (rest := answers (ackBytes d) ++ rest) hbudget hsu.txAns hsu.rxAns
  obtain ⟨w, hw, hvw, hwt, hkind⟩ := enterLoop_acknowledged (n := 0) (st := d) (huv.budget hbudget) huv.txAns huv.rxAns
  rw [if_neg ha] at hu
  rw [if_neg hb] at hv
  rw [if_neg hd] at hw
  have hexec : runExec c s = .returns .errorTransmission { w with cx := .failed } := by
    rw [runExec, enterTries, hu, hv, hw]; rfl
  have hend := (hsu.trans huv).trans hvw
  have htries : w.tries = 3 := by rw [hwt, hvt, hut]; rfl
  have hframe := hend.frame
  rw [htries, hkind] at hframe
  refine ⟨_, congrArg (callProc .status) hexec, rfl, hend.sent, ?_⟩
  conv_lhs => rw [hframe]

/-! The command and the exit (R162, R172, R175). -/

/-- The command's frame, acknowledged: STAT is the Status, and the exit follows but for the kinds of NOEXIT. -/
theorem runCommand_acknowledged {c : Kind} {s : State} {st : Byte} {txs : List TxAns} {rest : List RxAns}
    (hb : AckBudget s) (ht : s.txAns = taken 8 ++ txs) (hr : s.rxAns = answers (ackBytes st) ++ rest) :
    ∃ u, runCommand c s = (if c.noExit then .returns (statusOf st) { u with stat := statusOf st, cx := .done }
        else runExit { u with stat := statusOf st }) ∧
      Exchanged s [c] txs rest u ∧ u.tries = s.tries := by
  refine ⟨_, ?_, (exchanged_acknowledged c st txs rest s).registers .commandSent s.tries, rfl⟩
  rw [runCommand, runSendAndAck_acknowledged (s := { s with cx := .commandSent }) hb ht hr]
  rfl

/-- The exit frame after an exchange: it is acknowledged where that is scanned for, and returns STAT. -/
theorem runExit_exchanged {s m : State} {ks : List Kind} {x : Byte} {txs : List TxAns} {rest : List RxAns}
    (hb : AckBudget s)
    (h : Exchanged s ks (taken 8 ++ txs) ((if s.cfg.exitAckScan then answers (ackBytes x) else []) ++ rest) m) :
    ∃ u, runExit m = .returns m.stat { u with cx := .done } ∧ Exchanged s (ks ++ [.exit]) txs rest u ∧
      u.tries = m.tries := by
  rw [← h.exitAckScan] at h
  cases hx : m.cfg.exitAckScan with
  | true =>
    simp only [hx, if_true] at h
    refine ⟨acknowledged .exit x txs rest { m with cx := .exitPending }, ?_,
      h.trans ((exchanged_acknowledged .exit x txs rest m).registers .exitPending m.tries), rfl⟩
    simp only [runExit, hx, if_true]
    rw [runSendAndAck_acknowledged (s := { m with cx := .exitPending }) (h.budget hb) h.txAns h.rxAns]
    rfl
  | false =>
    simp only [hx, Bool.false_eq_true, if_false, List.nil_append] at h
    refine ⟨{ m with
        cx := .exitPending, kind := .exit, ph := .tx, txi := 7, txAns := txs
        hist := frameSent { m with kind := .exit, txi := 0 } ++ m.hist }, ?_, ⟨?_, ?_⟩, rfl⟩
    · simp only [runExit, hx, Bool.false_eq_true, if_false]
      rw [runSendFrame_taken (s := { m with cx := .exitPending }) h.txAns]
      rfl
    · generalize frameSent { m with kind := .exit, txi := 0 } ++ m.hist = hist
      conv_lhs => rw [h.frame]
    · refine (txStream_frame .exit m).trans ?_
      rw [h.sent, frameBytes_congr h.ct, List.append_assoc, frameBytes_append]

/-- Enter and command, acknowledged with Success and with st, in `Exec(C)`. -/
theorem runExec_acknowledged {s : State} {c : Kind} {st : Byte} {txs : List TxAns} {rest : List RxAns}
    (hb : AckBudget s) (ht : s.txAns = taken 16 ++ txs)
    (hr : s.rxAns = answers (ackBytes 0x01#8 ++ ackBytes st) ++ rest) :
    ∃ u, runExec c s = (if c.noExit then .returns (statusOf st) { u with cx := .done } else runExit u) ∧
      Exchanged { s with cmd := c, stat := statusOf st } [.enter, c] txs rest u ∧ u.tries = 1 ∧
      u.stat = statusOf st := by
  obtain ⟨u, hu, hsu, hut, -⟩ := enterLoop_acknowledged (n := 2) (st := 0x01#8) (txs := taken 8 ++ txs)
    (rest := answers (ackBytes st) ++ rest) (s := { s with cmd := c, cx := .enterPending, tries := 0 }) hb ht hr
  obtain ⟨v, hv, huv, hvt⟩ := runCommand_acknowledged (c := c) (hsu.budget hb) hsu.txAns hsu.rxAns
  obtain ⟨hframe, hsent⟩ := (hsu.trans huv).setStat (statusOf st)
  refine ⟨_, ?_, ⟨hframe, hsent⟩, hvt.trans hut, rfl⟩
  rw [runExec, enterTries, hu, ← hv]
  rfl

/-- What `Exec(C)` leaves of the state, entered at the first attempt. -/
theorem Exchanged.done {s u : State} {c : Kind} {stat : Status} {ks : List Kind} {txs : List TxAns} {rest : List RxAns}
    (h : Exchanged { s with cmd := c, stat := stat } ks txs rest u) (ht : u.tries = 1) (r : Ret) :
    { u with cx := .done, ret := r } = { s with
      cmd := c, cx := .done, tries := 1, stat := stat, kind := u.kind, txi := 7, ph := u.ph, fsmode := .ack, mc := 3
      att := 3, pc := 1, pb := u.pb, txAns := txs, rxAns := rest, hist := u.hist, ret := r } := by
  have hframe := h.frame
  rw [ht] at hframe
  conv_lhs => rw [hframe]

/-- Settles O43: enter, command and, but for the kinds of NOEXIT, exit. -/
theorem execReturnsTheCommandsStatus : Obligations.ExecReturnsTheCommandsStatus := by
  intro s c st x txs rest hc h3 hw ht hr
  cases hk : c.noExit with
  | true =>
    simp only [bracketFrames, bracketAcks, noExit_eq, hk, if_true] at ht hr ⊢
    obtain ⟨u, hexec, hu, htries, -⟩ := runExec_acknowledged (c := c) ⟨h3, hw⟩ ht hr
    rw [if_pos hk] at hexec
    exact ⟨_, congrArg (callProc .status) hexec, rfl, hu.sent, hu.done htries _⟩
  | false =>
    simp only [bracketFrames, bracketAcks, noExit_eq, hk, Bool.false_eq_true, if_false] at ht hr ⊢
    obtain ⟨u, hexec, hu, htries, hstat⟩ := runExec_acknowledged (c := c) (txs := taken 8 ++ txs)
      (rest := (if s.cfg.exitAckScan then answers (ackBytes x) else []) ++ rest) ⟨h3, hw⟩ ht
      (hr.trans (by cases s.cfg.exitAckScan <;> rfl))
    obtain ⟨v, hexit, hv, hvt⟩ := runExit_exchanged (s := { s with cmd := c, stat := statusOf st }) ⟨h3, hw⟩ hu
    rw [hk, hexit, hstat] at hexec
    exact ⟨_, congrArg (callProc .status) hexec, rfl, hv.sent, hv.done (hvt.trans htries) _⟩

end Sys2Proof.Proofs
end

section
/-! SUPPORT. `Exec` and the small-step rules are the same machine (41_command_fsm.md R162): the answers that a frame or a
run takes lead the engine to its `StepResult`, and the Statuses lead it from frame to frame. -/

namespace Sys2Proof.Proofs

open Sys2Proof.Machine Sys2Proof.Claims

/-! What the loops leave unchanged. -/

/-- u is s with bytes received in a run. -/
def Received (s u : State) : Prop :=
  u = { s with
    ph := u.ph, mc := u.mc, att := u.att, pc := u.pc, pb := u.pb, rxAns := u.rxAns, hist := u.hist }

theorem Received.trans {s m u : State} (h : Received s m) (h' : Received m u) : Received s u :=
  Eq.trans h' (by rw [h])

theorem payloadLoop_received {n : Nat} {as : List RxAns} {s u : State} {r : SyncResult}
    (h : payloadLoop n as s = .returns r u) : Received s u := by
  by_cases hpc : n ≤ s.pc.val
  · rw [payloadLoop_done hpc] at h; cases h; rfl
  · rw [Nat.not_le] at hpc
    match as, h with
    | [], h => rw [payloadLoop_nil hpc] at h; cases h
    | .fail :: as, h => rw [payloadLoop_fail hpc] at h; cases h; rfl
    | .byte b :: as, h =>
      rw [payloadLoop_byte hpc] at h
      exact .trans (m := (s.takeRx (.byte b) as).pushPayload b) rfl (payloadLoop_received h)

theorem searchLoop_received {m : FsMode} {as : List RxAns} {s u : State} {r : SyncResult}
    (h : searchLoop m as s = .returns r u) : Received s u := by
  by_cases hmc : prefixLen m ≤ s.mc.val
  · rw [searchLoop_matched hmc] at h
    exact .trans (m := { s with ph := .pay }) rfl (payloadLoop_received h)
  rw [Nat.not_le] at hmc
  by_cases ha : s.att = s.msa
  · rw [searchLoop_exhausted hmc ha] at h; cases h; rfl
  · match as, h with
    | [], h => rw [searchLoop_nil hmc ha] at h; cases h
    | .fail :: as, h => rw [searchLoop_fail hmc ha] at h; cases h; rfl
    | .byte b :: as, h =>
      rw [searchLoop_byte hmc ha] at h
      exact .trans (m := afterSearchByte b (s.takeRx (.byte b) as)) rfl (searchLoop_received h)

/-- u is s with bytes sent and received. -/
structure Transacted (s u : State) : Prop where
  frame : u = { s with
    kind := u.kind, txi := u.txi, ph := u.ph, fsmode := u.fsmode, mc := u.mc, att := u.att, pc := u.pc, pb := u.pb
    txAns := u.txAns, rxAns := u.rxAns, hist := u.hist }

namespace Transacted

theorem trans {s m u : State} (h : Transacted s m) (h' : Transacted m u) : Transacted s u where
  frame := h'.frame.trans (by rw [h.frame])

variable {s u : State} (h : Transacted s u)
include h

theorem cfg : u.cfg = s.cfg := by rw [h.frame]
theorem msa : u.msa = s.msa := by rw [h.frame]
theorem cx : u.cx = s.cx := by rw [h.frame]
theorem cmd : u.cmd = s.cmd := by rw [h.frame]
theorem tries : u.tries = s.tries := by rw [h.frame]
theorem ret : u.ret = s.ret := by rw [h.frame]

theorem grain (hg : ByteGrain s) : ByteGrain u := by rw [h.frame]; exact hg

end Transacted

/-- One transaction of the loop of `SendFrame`. -/
theorem sendLoop_returns {n : Nat} {s u : State} {ok : Bool} (h : sendLoop (n + 1) s = .returns ok u) :
    (∃ as, s.txAns = .fail :: as ∧ ok = false ∧ u = { s with txi := Fin.ofNat 8 (7 - n) }.takeTx .fail as) ∨
    (∃ as, s.txAns = .done :: as ∧
      sendLoop n ({ s with txi := Fin.ofNat 8 (7 - n) }.takeTx .done as) = .returns ok u) := by
  rw [sendLoop] at h
  cases ht : s.txAns with
  | nil => simp only [ht] at h; cases h
  | cons a as =>
    simp only [ht] at h
    cases a with
    | fail => cases h; exact .inl ⟨as, rfl, rfl, rfl⟩
    | done => exact .inr ⟨as, rfl, h⟩

theorem sendLoop_transacted {n : Nat} {s u : State} {ok : Bool} (h : sendLoop n s = .returns ok u) :
    Transacted s u := by
  induction n generalizing s with
  | zero => cases h; exact ⟨rfl⟩
  | succ n ih =>
    obtain ⟨as, -, -, rfl⟩ | ⟨as, -, h⟩ := sendLoop_returns h
    · exact ⟨rfl⟩
    · exact .trans (m := { s with txi := Fin.ofNat 8 (7 - n) }.takeTx .done as) ⟨rfl⟩ (ih h)

theorem runSendFrame_transacted {k : Kind} {s u : State} {ok : Bool} (h : runSendFrame k s = .returns ok u) :
    Transacted s u :=
  .trans (m := { s with kind := k, ph := .tx }) ⟨rfl⟩ (sendLoop_transacted h)

theorem runSync_received {m : FsMode} {s u : State} {r : SyncResult} (h : runSync m s = .returns r u) :
    Received (startRun m s) u := searchLoop_received h

theorem runSyncAck_returns {s u : State} {st : Status} (h : runSyncAck s = .returns st u) :
    ∃ r, runSync .ack s = .returns r u ∧ st = if decide (r = .found) then statusOf u.pb[0] else .errorTransmission := by
  cases hsync : runSync .ack s with
  | waits v => rw [runSyncAck, hsync] at h; cases h
  | returns r v =>
    cases r with
    | found => rw [runSyncAck_found hsync] at h; cases h; exact ⟨_, rfl, rfl⟩
    | notFound c => rw [runSyncAck_notFound hsync] at h; cases h; exact ⟨_, rfl, rfl⟩

theorem runSyncAck_transacted {s u : State} {st : Status} (h : runSyncAck s = .returns st u) : Transacted s u := by
  obtain ⟨r, hr, -⟩ := runSyncAck_returns h
  have hu : Transacted (startRun .ack s) u := ⟨by rw [show Received _ u from runSync_received hr]⟩
  exact .trans (m := startRun .ack s) ⟨rfl⟩ hu

theorem runSendAndAck_returns {k : Kind} {s u : State} {st : Status} (h : runSendAndAck k s = .returns st u) :
    (runSendFrame k s = .returns false u ∧ st = .errorTransmission) ∨
    (∃ v, runSendFrame k s = .returns true v ∧ runSyncAck v = .returns st u) := by
  unfold runSendAndAck at h
  cases hsend : runSendFrame k s with
  | waits v => rw [hsend] at h; cases h
  | returns ok v =>
    rw [hsend] at h
    cases ok with
    | false => cases h; exact .inl ⟨rfl, rfl⟩
    | true => exact .inr ⟨v, rfl, h⟩

theorem runSendAndAck_transacted {k : Kind} {s u : State} {st : Status} (h : runSendAndAck k s = .returns st u) :
    Transacted s u := by
  obtain ⟨h, -⟩ | ⟨v, h, hv⟩ := runSendAndAck_returns h
  · exact runSendFrame_transacted h
  · exact (runSendFrame_transacted h).trans (runSyncAck_transacted hv)

/-! The steps of a frame (R165 to R167). -/

theorem run_one {s : State} {o : Result} (h : step s = o) : core.run 1 s = o := by
  have hc : core.step s = o := h
  simp only [Host.Core.run, hc]
  cases o <;> rfl

/-- At the byte grain there is no level of the reset input to read. -/
theorem tail_of_byteGrain {s : State} (hg : ByteGrain s) (as : List TxAns) :
    { s with rst := s.rst.tail, txAns := as } = { s with txAns := as } := by
  obtain ⟨hrst, -, -⟩ := hg
  rw [hrst]
  rfl

/-- At the byte grain a step in PH_TX takes the next answer. -/
theorem step_taken {s : State} {as : List TxAns} (hg : ByteGrain s) (hp : s.ph = .tx) (ht : s.txAns = .done :: as) :
    step s = byteSent (s.takeTx .done as) := by
  obtain ⟨-, htb, -⟩ := id hg
  rw [step_txDone (noReset_of_byteGrain hg) hp htb ht, tail_of_byteGrain hg, txDone_tx (by exact hp)]
  rfl

theorem step_failed {s : State} {as : List TxAns} (hg : ByteGrain s) (hp : s.ph = .tx) (ht : s.txAns = .fail :: as) :
    step s = stepResult .errorTransmission (s.takeTx .fail as) := by
  obtain ⟨-, htb, -⟩ := id hg
  rw [step_txFail (noReset_of_byteGrain hg) hp htb ht, tail_of_byteGrain hg, txFail_tx (by exact hp)]
  rfl

/-- The loop of `SendFrame` from TXI on: the steps take its answers, and the last of them is that of byte 7 or a
failure. -/
theorem sendLoop_run {n : Nat} {s u : State} {ok : Bool} (hn : n < 8) (hg : ByteGrain s) (hp : s.ph = .tx)
    (htxi : s.txi = Fin.ofNat 8 (7 - n)) (h : sendLoop (n + 1) s = .returns ok u) :
    (ok = true → u.txi.val = 7) ∧
      ∃ k, core.run k s = if ok then byteSent u else stepResult .errorTransmission u := by
  induction n generalizing s with
  | zero =>
    have hcases := sendLoop_returns h
    rw [← htxi] at hcases
    obtain ⟨as, ht, rfl, rfl⟩ | ⟨as, ht, h⟩ := hcases
    · exact ⟨nofun, 1, run_one (step_failed hg hp ht)⟩
    · cases h
      exact ⟨fun _ => congrArg Fin.val htxi, 1, run_one (step_taken hg hp ht)⟩
  | succ n ih =>
    have hcases := sendLoop_returns h
    rw [← htxi] at hcases
    obtain ⟨as, ht, rfl, rfl⟩ | ⟨as, ht, h⟩ := hcases
    · exact ⟨nofun, 1, run_one (step_failed hg hp ht)⟩
    · have hval : s.txi.val = 7 - (n + 1) := by rw [htxi]; exact Nat.mod_eq_of_lt (by omega)
      have hnext : s.txi + 1 = Fin.ofNat 8 (7 - n) := Fin.ext (by
        rw [Fin.val_add_one_of_lt' (by omega), hval, Fin.val_ofNat, Nat.mod_eq_of_lt (by omega)]; omega)
      have hstep := (step_taken hg hp ht).trans (byteSent_more (s := s.takeTx .done as) (show s.txi.val < 7 by omega))
      obtain ⟨hlast, k, hk⟩ := ih (s := { s.takeTx .done as with txi := s.txi + 1 }) (by omega) hg hp hnext h
      exact ⟨hlast, k + 1, (run_succ hstep k).trans hk⟩

/-- `SendFrame(k)` from the start of the frame. -/
theorem runSendFrame_run {k : Kind} {s u : State} {ok : Bool} (hg : ByteGrain s)
    (h : runSendFrame k s = .returns ok u) :
    (ok = true → u.txi.val = 7) ∧
      ∃ n, core.run n (startFrame k s) = if ok then byteSent u else stepResult .errorTransmission u :=
  sendLoop_run (n := 7) (s := startFrame k s) (by omega) hg rfl rfl h

/-! The steps of a run (40_frame_sync.md R131, R141). -/

/-- `SyncAck` from the start of the run. -/
theorem runSyncAck_run {s u : State} {st : Status} (hg : ByteGrain s) (ha : 1 ≤ s.msa)
    (h : runSyncAck s = .returns st u) : ∃ n, core.run n (startRun .ack s) = stepResult st u := by
  obtain ⟨r, hr, hst⟩ := runSyncAck_returns h
  obtain ⟨used, hused, hends⟩ := runSync_ends u.rxAns ha hr
  have hsteps := run_of_runEnds hends hg
  rw [withRx_on, ← hused] at hsteps
  have hu : Received (startRun .ack s) u := runSync_received hr
  have hret : s.ret = u.ret := by rw [hu]; rfl
  have hmode : u.fsmode = .ack := by rw [hu]; rfl
  rw [hret, endRun_ack (by exact hmode)] at hsteps
  exact ⟨used.length, hst ▸ hsteps⟩

/-- `SendAndAck(k)` from the start of the frame: its Status is taken by `StepResult` (R169). -/
theorem runSendAndAck_run {k : Kind} {s u : State} {st : Status} (hg : ByteGrain s) (ha : 1 ≤ s.msa)
    (hx : ¬ (s.cx = .exitPending ∧ s.cfg.exitAckScan = false)) (h : runSendAndAck k s = .returns st u) :
    ∃ n, core.run n (startFrame k s) = stepResult st u := by
  obtain ⟨hf, rfl⟩ | ⟨v, hf, hv⟩ := runSendAndAck_returns h
  · exact (runSendFrame_run hg hf).2
  · obtain ⟨hlast, n, hn⟩ := runSendFrame_run hg hf
    have hsv := runSendFrame_transacted hf
    rw [if_pos rfl, byteSent_listens (hlast rfl) (by rwa [hsv.cx, hsv.cfg])] at hn
    obtain ⟨m, hm⟩ := runSyncAck_run (hsv.grain hg) (hsv.msa ▸ ha) hv
    exact ⟨n + m, (run_add hn m).trans hm⟩

/-! The bracket. -/

/-- What the entry attempts leave of the state is what one of them leaves, but for TRY. -/
theorem enterLoop_transacted {n : Nat} {s u : State} {ok : Bool} (h : enterLoop n s = .returns ok u) :
    Transacted { s with tries := u.tries } u := by
  induction n generalizing s with
  | zero => cases h; exact ⟨rfl⟩
  | succ n ih =>
    cases hs : runSendAndAck .enter { s with tries := s.tries + 1 } with
    | waits v => rw [enterLoop, hs] at h; cases h
    | returns r v =>
      have hv := runSendAndAck_transacted hs
      rw [enterLoop_returns hs] at h
      split at h
      · cases h; rw [hv.tries]; exact hv
      · have hu := ih h
        exact ⟨hu.frame.trans (by rw [hv.frame])⟩

/-- Where a bracket goes after the entry attempts (R163, R170). -/
def afterEntry (entered : Bool) (u : State) : State :=
  if entered then startFrame u.cmd { u with cx := .commandSent } else finish .errorTransmission { u with cx := .failed }

/-- A Status other than Success, after which n more attempts may follow (R170). -/
theorem enterLoop_run {n : Nat} {r : Status} {s u : State} {ok : Bool} (hg : ByteGrain s) (ha : 1 ≤ s.msa)
    (hc : s.cx = .enterPending) (ht : s.tries.val + n = 3) (hr : r ≠ .success) (h : enterLoop n s = .returns ok u) :
    ∃ k m, stepResult r s = .next m ∧ core.run k m = .next (afterEntry ok u) := by
  induction n generalizing s r with
  | zero =>
    cases h
    exact ⟨0, _, stepResult_giveUp hc hr ht, rfl⟩
  | succ n ih =>
    cases hs : runSendAndAck .enter { s with tries := s.tries + 1 } with
    | waits v => rw [enterLoop, hs] at h; cases h
    | returns r' v =>
      have hv := runSendAndAck_transacted hs
      obtain ⟨k, hk⟩ := runSendAndAck_run (s := { s with tries := s.tries + 1 }) hg ha (by rw [hc]; nofun) hs
      rw [enterLoop_returns hs] at h
      by_cases hr' : r' = .success
      · rw [if_pos hr'] at h
        cases h
        rw [hr', stepResult_entered (hv.cx.trans hc)] at hk
        exact ⟨k, _, stepResult_retry hc hr (by omega), hk⟩
      · rw [if_neg hr'] at h
        have htries : v.tries.val + n = 3 := by
          rw [hv.tries, Fin.val_add_one_of_lt' (by omega)]; omega
        obtain ⟨j, m, hm, hj⟩ := ih (hv.grain hg) (hv.msa ▸ ha) (hv.cx.trans hc) htries hr' h
        exact ⟨k + j, _, stepResult_retry hc hr (by omega), (run_add (hk.trans hm) j).trans hj⟩

/-- The exit from the start of the exit frame (R172). -/
theorem runExit_run {s u : State} {st : Status} (hg : ByteGrain s) (ha : 1 ≤ s.msa) (h : runExit s = .returns st u) :
    u.ret = s.ret ∧ ∃ n, core.run n (startFrame .exit { s with cx := .exitPending }) = .next (finish st u) := by
  simp only [runExit] at h
  cases hx : s.cfg.exitAckScan with
  | true =>
    simp only [hx, if_true] at h
    cases hs : runSendAndAck .exit { s with cx := .exitPending } with
    | waits v => rw [hs] at h; cases h
    | returns r v =>
      rw [hs] at h
      cases h
      have hv := runSendAndAck_transacted hs
      obtain ⟨n, hn⟩ := runSendAndAck_run (s := { s with cx := .exitPending }) hg ha (by simp [hx]) hs
      exact ⟨hv.ret, n, hn.trans (stepResult_exitDone hv.cx r)⟩
  | false =>
    simp only [hx, Bool.false_eq_true, if_false] at h
    cases hs : runSendFrame .exit { s with cx := .exitPending } with
    | waits v => rw [hs] at h; cases h
    | returns ok v =>
      rw [hs] at h
      cases h
      have hv := runSendFrame_transacted hs
      obtain ⟨hlast, n, hn⟩ := runSendFrame_run (s := { s with cx := .exitPending }) hg hs
      refine ⟨hv.ret, n, hn.trans ?_⟩
      cases ok with
      | false => exact stepResult_exitDone hv.cx _
      | true =>
        rw [if_pos rfl, byteSent_unscanned (hlast rfl) hv.cx (by rw [hv.cfg]; exact hx)]
        exact stepResult_exitDone hv.cx _

/-- The command and the exit from the start of the command frame (R171, R175). -/
theorem runCommand_run {c : Kind} {s u : State} {st : Status} (hg : ByteGrain s) (ha : 1 ≤ s.msa) (hcmd : s.cmd = c)
    (h : runCommand c s = .returns st u) :
    u.ret = s.ret ∧ ∃ n, core.run n (startFrame s.cmd { s with cx := .commandSent }) = .next (finish st u) := by
  subst hcmd
  simp only [runCommand] at h
  cases hs : runSendAndAck s.cmd { s with cx := .commandSent } with
  | waits v => rw [hs] at h; cases h
  | returns r v =>
    simp only [hs] at h
    have hv := runSendAndAck_transacted hs
    have hk : v.cmd = s.cmd := hv.cmd
    obtain ⟨n, hn⟩ := runSendAndAck_run (s := { s with cx := .commandSent }) hg ha nofun hs
    cases hx : s.cmd.noExit with
    | true =>
      rw [hx] at h
      cases h
      exact ⟨hv.ret, n, hn.trans (stepResult_commandDone hv.cx (hk ▸ hx) _)⟩
    | false =>
      rw [hx] at h
      obtain ⟨hret, m, hm⟩ := runExit_run (s := { v with stat := r }) (hv.grain hg) (hv.msa ▸ ha) h
      rw [stepResult_commandExit hv.cx (hk ▸ hx)] at hn
      exact ⟨hret.trans hv.ret, n + m, (run_add hn m).trans hm⟩

/-- Settles O45: the attempts, the command and the exit, one after another. -/
theorem execIsTheSmallStepMachine : Obligations.ExecIsTheSmallStepMachine := by
  intro s t c st hg ha h hret
  obtain ⟨st', u, hexec, rfl⟩ := callProc_returns h (by rw [hret]; nofun)
  obtain rfl : st' = st := Ret.status.inj hret
  unfold runExec at hexec
  cases hs : enterLoop enterTries { s with cmd := c, cx := .enterPending, tries := 0 } with
  | waits v => rw [hs] at hexec; cases hexec
  | returns ok v =>
    obtain ⟨k, m, hm, hk⟩ := enterLoop_run (r := .errorTransmission)
      (s := { s with cmd := c, cx := .enterPending, tries := 0 }) hg ha rfl rfl nofun hs
    -- `BracketStart(C)` is the retry of a bracket that has made no attempt yet
    have hretry := stepResult_retry (r := .errorTransmission)
      (s := { s with cmd := c, cx := .enterPending, tries := 0 }) rfl nofun (Nat.succ_pos 2)
    obtain rfl : bracketing c s = m := Host.Outcome.next.inj (hretry.symm.trans hm)
    have hv := enterLoop_transacted hs
    rw [hs] at hexec
    cases ok with
    | false =>
      cases hexec
      refine ⟨k, hk.trans ?_⟩
      rw [← show v.ret = s.ret from hv.ret]
      rfl
    | true =>
      obtain ⟨hur, j, hj⟩ := runCommand_run (hv.grain hg) (hv.msa ▸ ha) hv.cmd hexec
      refine ⟨k + j, (run_add hk j).trans ?_⟩
      rw [show s.ret = u.ret from (hur.trans hv.ret).symm]
      exact hj

end Sys2Proof.Proofs
end

section
/-! SUPPORT. The edges of CX (41_command_fsm.md R181): CX changes when a request starts a bracket, when a
send-and-acknowledge step ends with a Status, and when the host takes the response. -/

namespace Sys2Proof.Proofs

open Sys2Proof.Machine Sys2Proof.Claims

/-! The end of a send-and-acknowledge step. -/

/-- t is s as far as the end of a step can be told from it: the registers of the run and the history. -/
def SameRun (s t : State) : Prop :=
  t.mc = s.mc ∧ t.att = s.att ∧ t.pc = s.pc ∧ t.pb = s.pb ∧ t.hist = s.hist

theorem sameRun_finish (st : Status) (s : State) : SameRun s (finish st s) := by
  obtain ⟨-, -, -, h⟩ | ⟨st', h, -⟩ := finish_outcome st s <;> rw [h] <;> exact ⟨rfl, rfl, rfl, rfl, rfl⟩

theorem sameRun_stepResult {r : Status} {s t : State} (h : stepResult r s = .next t) : SameRun s t := by
  obtain ⟨-, -, rfl⟩ | ⟨-, -, -, rfl⟩ | ⟨-, -, -, rfl⟩ | ⟨-, -, rfl⟩ | ⟨-, -, rfl⟩ | ⟨-, rfl⟩ := stepResult_cases h
  · exact ⟨rfl, rfl, rfl, rfl, rfl⟩
  · exact ⟨rfl, rfl, rfl, rfl, rfl⟩
  · exact sameRun_finish _ { s with cx := .failed }
  · exact sameRun_finish r { s with stat := r, cx := .done }
  · exact ⟨rfl, rfl, rfl, rfl, rfl⟩
  · exact sameRun_finish s.stat { s with cx := .done }

/-- In the step from s a Status r ended the send-and-acknowledge step, or the exit frame was sent without scan; m is the
state in which `StepResult` takes it. -/
def Ended (r : Status) (s m : State) : Prop :=
  StepEnded r s m ∨ (s.cx = .exitPending ∧ ExitSentUnscanned s m)

theorem Ended.sameRun {r : Status} {s m t : State} (h : Ended r s m) (ht : SameRun m t) : Ended r s t := by
  obtain ⟨hmc, hatt, hpc, hpb, hhist⟩ := ht
  simpa only [Ended, StepEnded, ExitSentUnscanned, hmc, hatt, hpc, hpb, hhist] using h

/-- From s to t CX stayed, or m, which is s with bytes transferred, took a Status. -/
def KeepsOrEnds (s t : State) : Prop :=
  t.cx = s.cx ∨ ∃ m r, Transfer s m ∧ Ended r s m ∧ stepResult r m = .next t

/-! The events. -/

/-- `TxDone` changes CX only at the end of an exit frame that is not scanned for (R166). -/
theorem txDone_exitSent {s t : State} (h : SeqInv s) (ht : txDone s = .next t) :
    t.cx = s.cx ∨ ∃ m, Transfer s m ∧ s.cx = .exitPending ∧ ExitSentUnscanned s m ∧
      stepResult .success m = .next t := by
  obtain ⟨hp, ht⟩ := txDone_cases ht
  obtain ⟨-, rfl⟩ | ⟨hlast, hc, hx, ht⟩ | ⟨-, -, rfl⟩ := byteSent_cases ht
  · exact .inl rfl
  · have hkind := h.txKind hp
    rw [show s.cx = .exitPending from hc] at hkind
    have hkind : s.kind = .exit := (Option.some.inj hkind).symm
    have htxi : s.txi = 7 := Fin.ext (Nat.le_antisymm (Nat.le_of_lt_succ s.txi.isLt) (Nat.not_lt.mp hlast))
    refine .inr ⟨_, observe_transfer s _, hc, ⟨hp, hx, ?_⟩, ht⟩
    simp only [State.observe, State.txData, hkind, htxi, List.head?_cons]
  · exact .inl rfl

theorem txDone_keepsOrEnds {s t : State} (h : SeqInv s) (ht : txDone s = .next t) : KeepsOrEnds s t :=
  (txDone_exitSent h ht).imp_right fun ⟨m, hm, hc, hx, hres⟩ => ⟨m, _, hm, .inr ⟨hc, hx⟩, hres⟩

/-- The rest of a frame as one buffer call (20_memory.md R61): its last `TxDone` is that of byte 7. -/
theorem sendRest_keepsOrEnds {s t : State} (h : SeqInv s) (hp : s.ph = .tx)
    (ht : sendRest (8 - s.txi.val) s = .next t) : KeepsOrEnds s t := by
  rw [sendRest_tx hp] at ht
  refine (txDone_exitSent (by exact { h with }) ht).imp_right fun ⟨m, hm, hc, hx, hres⟩ =>
    ⟨m, _, ?_, .inr ⟨hc, hx⟩, hres⟩
  exact .trans (by exact ⟨rfl, .inl rfl⟩) hm

theorem txFail_keepsOrEnds {s t : State} (ht : txFail s = .next t) : KeepsOrEnds s t := by
  obtain ⟨hp, ht⟩ := txFail_cases ht
  exact .inr ⟨_, _, observe_transfer s _, .inl (.inr ⟨rfl, .inl ⟨hp, rfl⟩⟩), ht⟩

/-- A run that ends in m: outside a bracket CX stays, within one m takes the run's Status. -/
theorem endRun_keepsOrEnds {found : Bool} {s m t : State} (hm : Transfer s m)
    (hr : s.fsmode = .ack → StepEnded (if found then statusOf m.pb[0] else .errorTransmission) s m)
    (ht : endRun found m = .next t) : KeepsOrEnds s t := by
  obtain ⟨hmode, ht⟩ | ⟨-, -, rfl⟩ | ⟨-, -, rfl⟩ := endRun_cases ht
  · rw [ackStatus_eq_statusOf] at ht
    exact .inr ⟨m, _, hm, .inl (hr (hm.fsmode ▸ hmode)), ht⟩
  · exact .inl hm.cx
  · exact .inl hm.cx

theorem rxFail_keepsOrEnds {s t : State} (ht : rxFail s = .next t) : KeepsOrEnds s t := by
  obtain ⟨hp, ht⟩ := rxFail_cases ht
  exact endRun_keepsOrEnds (observe_transfer s _) (fun _ => .inr ⟨rfl, .inr (.inl ⟨hp, rfl⟩)⟩) ht

theorem searchStep_keepsOrEnds {b : Byte} {s t : State} (h : SeqInv s) (hp : s.ph = .scan)
    (ht : searchStep b (s.observe (.rx s.devId (.byte b))) = .next t) : KeepsOrEnds s t := by
  obtain ⟨-, rfl⟩ | ⟨hpart, hspent, ht⟩ | ⟨-, -, rfl⟩ := searchStep_cases ht
  · exact .inl rfl
  · have hafter : Transfer s (afterSearchByte b (s.observe (.rx s.devId (.byte b)))) := ⟨rfl, .inl rfl⟩
    refine endRun_keepsOrEnds hafter (fun hmode => .inr ⟨rfl, .inr (.inr ⟨hp, ?_, hspent⟩)⟩) ht
    obtain ⟨hmc, -⟩ := h.scan hp
    have hnext := nextMc_cases hmc b
    simp only [afterSearchByte_mc, State.observe_fsmode, State.observe_mc, hmode, prefixLen] at hpart hmc hnext ⊢
    omega
  · exact .inl rfl

theorem payloadStep_keepsOrEnds {b : Byte} {s t : State} (h : SeqInv s) (hp : s.ph = .pay)
    (ht : payloadStep b (s.observe (.rx s.devId (.byte b))) = .next t) : KeepsOrEnds s t := by
  obtain ⟨-, ht⟩ | ⟨-, rfl⟩ := payloadStep_cases ht
  · have hafter : Transfer s ((s.observe (.rx s.devId (.byte b))).pushPayload b) := ⟨rfl, .inl rfl⟩
    refine endRun_keepsOrEnds hafter (fun hmode => .inl ⟨.inr hp, ?_⟩) ht
    obtain ⟨hmc, hpc, -⟩ := h.pay hp
    rw [hmode] at hmc hpc
    have hpc0 : s.pc = 0 := Fin.ext (Nat.lt_one_iff.mp hpc)
    have hpb : (s.pb.setIfInBounds s.pc b)[0] = b := by simp [hpc0]
    refine ⟨Fin.ext hmc, ?_, rfl, ?_⟩
    · show s.pc + 1 = 1
      rw [hpc0]; rfl
    · show some (Obs.rx s.devId (.byte b)) = some (.rx s.devId (.byte (s.pb.setIfInBounds s.pc b)[0]))
      rw [hpb]
  · exact .inl rfl

theorem rxByte_keepsOrEnds {b : Byte} {s t : State} (h : SeqInv s) (ht : rxByte b s = .next t) : KeepsOrEnds s t := by
  obtain ⟨hp, ht⟩ | ⟨hp, ht⟩ := rxByte_cases ht
  · exact searchStep_keepsOrEnds h hp ht
  · exact payloadStep_keepsOrEnds h hp ht

/-! A step. -/

/-- A run that ended after some bytes of it were transferred ended in the step that transferred them. -/
theorem Ended.before {r : Status} {s u m : State} (hp : s.ph = .scan ∨ s.ph = .pay) (hu : Transfer s u)
    (hr : Ended r u m) : Ended r s m := by
  have hrun := hu.receiving_iff.mpr hp
  have htx : u.ph ≠ .tx := by obtain h | h := hrun <;> rw [h] <;> nofun
  have hscan : u.ph = .scan → s.ph = .scan := fun h => by
    obtain he | ⟨hs, -⟩ := hu.phase
    · exact he ▸ h
    · exact hs
  obtain (⟨-, hfound⟩ | ⟨hst, hfail⟩) | ⟨-, htx', -⟩ := hr
  · exact .inl (.inl ⟨hp, hu.devId ▸ hfound⟩)
  · refine .inl (.inr ⟨hst, ?_⟩)
    obtain ⟨htx', -⟩ | ⟨-, hf⟩ | ⟨hs, hmc, hatt⟩ := hfail
    · exact absurd htx' htx
    · exact .inr (.inl ⟨hp, hu.devId ▸ hf⟩)
    · exact .inr (.inr ⟨hscan hs, hmc, hatt.trans hu.msa⟩)
  · exact absurd htx' htx

/-- A delivery of bytes: the bytes the engine no longer asks for are left in the stream. -/
theorem deliver_keepsOrEnds {bs : List Byte} {s t : State} (h : SeqInv s) (hp : s.ph = .scan ∨ s.ph = .pay)
    (ht : deliver bs s = .next t) : ∃ u as, KeepsOrEnds s u ∧ t = { u with rxAns := as } := by
  induction bs generalizing s with
  | nil => cases ht; exact ⟨t, t.rxAns, .inl rfl, rfl⟩
  | cons b bs ih =>
    rw [deliver_wanted hp] at ht
    obtain ⟨u, hu, ht⟩ := andThen_cases ht
    by_cases hup : u.ph = .scan ∨ u.ph = .pay
    · obtain ⟨m, hm, hmove⟩ := rxByte_move hu
      obtain rfl := hmove.eq_of_receiving (hm.receiving_iff.mpr hp) hup
      obtain ⟨v, as, hv, rfl⟩ := ih (seqInv_rxByte h hu) hup ht
      refine ⟨v, as, ?_, rfl⟩
      obtain hcx | ⟨m', r, hm', hr, hres⟩ := hv
      · exact .inl (hcx.trans hm.cx)
      · exact .inr ⟨m', r, hm.trans hm', hr.before hp hm, hres⟩
    · rw [deliver_unwanted (rxWant_eq_false.mpr (not_or.mp hup))] at ht
      cases ht
      exact ⟨u, _, rxByte_keepsOrEnds h hu, rfl⟩

/-- What is pending in the environment is of no concern to CX. -/
theorem KeepsOrEnds.environment {s t : State} {rst : List Bool} {txAns : List TxAns} {rxAns : List RxAns} {txBuf : Bool}
    {rxBuf : List Byte}
    (h : KeepsOrEnds { s with rst := rst, txAns := txAns, rxAns := rxAns, txBuf := txBuf, rxBuf := rxBuf } t) :
    KeepsOrEnds s t :=
  h.imp_right fun ⟨m, r, hm, hr, hres⟩ => ⟨m, r, .trans (by exact ⟨rfl, .inl rfl⟩) hm, hr, hres⟩

/-- How CX can change in a step without reset outside PH_IDLE. -/
theorem busyStep_cx {s t : State} (h : SeqInv s) (hn : NoReset s) (hi : s.ph ≠ .idle) (ht : step s = .next t) :
    (∃ u as, KeepsOrEnds s u ∧ t = { u with rxAns := as }) ∨ (s.ph = .rsp ∧ 1 ≤ s.takes ∧ t.cx = .idle) := by
  have event : ∀ {o : Prop}, KeepsOrEnds s t → (∃ u as, KeepsOrEnds s u ∧ t = { u with rxAns := as }) ∨ o :=
    fun hk => .inl ⟨t, t.rxAns, hk, rfl⟩
  obtain ⟨hp, -⟩ | ⟨hp, -⟩ | ⟨hp, -, ht⟩ | ⟨-, -, -, rfl⟩ | ⟨-, -, as, -, ht⟩ | ⟨-, -, as, -, ht⟩ | ⟨hp, -, ht⟩ |
    ⟨-, -, -, rfl⟩ | ⟨-, -, b, as, -, ht⟩ | ⟨-, -, as, -, ht⟩ | ⟨-, -, rfl⟩ | ⟨hp, n, htakes, ht⟩ := step_cases hn ht
  · exact absurd hp hi
  · exact absurd hp hi
  · have hrest := sendRest_keepsOrEnds (s := { s with rst := s.rst.tail, txBuf := false }) { h with } hp ht
    exact event hrest.environment
  · exact event (.inl rfl)
  · exact event (txDone_keepsOrEnds (by exact { h with }) ht).environment
  · exact event (txFail_keepsOrEnds ht).environment
  · obtain ⟨u, as, hu, rfl⟩ := deliver_keepsOrEnds (by exact { h with }) (by exact hp) ht
    exact .inl ⟨u, as, hu.environment, rfl⟩
  · exact event (.inl rfl)
  · exact event (rxByte_keepsOrEnds (by exact { h with }) ht).environment
  · exact event (rxFail_keepsOrEnds ht).environment
  · exact event (.inl rfl)
  · obtain ⟨-, rfl⟩ := rspTaken_cases ht
    exact .inr ⟨hp, by omega, rfl⟩

/-- A command-issuing operation with an invalid argument starts no bracket. -/
theorem commandOp_invalid {op : BitVec 4} {arg : Half} {valid : Bool} {write : State → State} {k : Kind} {s t : State}
    (h : commandOp op arg valid write k s = .next t) (hv : valid = false) : t.cx = s.cx := by
  obtain ⟨-, rfl⟩ | ⟨-, hv', -⟩ | ⟨-, -, rfl⟩ := commandOp_cases h
  · rfl
  · rw [hv] at hv'; cases hv'
  · rfl

/-- A request without brackets leaves CX as it is. -/
theorem exec_withoutBrackets {i : Instr} {op : BitVec 4} {arg : Half} {s t : State} (hi : reqOp i = some (op, arg))
    (hb : brackets i = []) (h : exec i s = .next t) : t.cx = s.cx := by
  cases i <;> simp only [reqOp, reduceCtorEq] at hi <;>
    simp only [brackets, ite_eq_right_iff, reduceCtorEq, imp_false] at hb
  all_goals dsimp only [exec] at h
  case readMeasurement | getBudget | setBudget => obtain ⟨-, rfl⟩ | ⟨-, rfl⟩ := whenIdle_cases h <;> rfl
  case setOutputPeriod => exact commandOp_invalid h (by simpa [validPeriod] using hb)
  case setRangeLimit => exact commandOp_invalid h (by simpa [validRange] using hb)
  case setStrengthLow => exact commandOp_invalid h (by simpa [validStrLo] using hb)
  case setStrengthHigh => exact commandOp_invalid h (by simpa [validStrHi] using hb)
  case reservedOp15 => cases h

/-- A request starts the first of its brackets, or none (30_encoding.md R104, 42_setters.md R191). -/
theorem exec_request_cx {i : Instr} {op : BitVec 4} {arg : Half} {s t : State} (hi : reqOp i = some (op, arg))
    (h : exec i s = .next t) : t.cx = s.cx ∨ (t.cx = .enterPending ∧ (brackets i).head? = some t.cmd) := by
  cases hb : brackets i with
  | nil => exact .inl (exec_withoutBrackets hi hb h)
  | cons k ks =>
    obtain ⟨op', arg', valid, write, hexec, rfl, -⟩ := exec_of_brackets hb
    obtain ⟨-, rfl⟩ | ⟨-, -, rfl⟩ | ⟨-, hv, -⟩ := commandOp_cases ((hexec s).symm.trans h)
    · exact .inl rfl
    · exact .inr ⟨rfl, rfl⟩
    · cases hv

/-- `Finish` changes CX only at the end of stage 0 of SET_DISTANCE_MODE, and STAT never (R173). -/
theorem finish_cx (st : Status) (s : State) :
    ((finish st s).cx = s.cx ∨
      ((finish st s).cx = .enterPending ∧ s.op = 6#4 ∧ s.stage = .pattern ∧ st = .success)) ∧
    (finish st s).stat = s.stat := by
  obtain ⟨hop, hs, hst, h⟩ | ⟨st', h, -⟩ := finish_outcome st s <;> rw [h]
  · exact ⟨.inr ⟨rfl, hop, hs, hst⟩, rfl⟩
  · exact ⟨.inl rfl, rfl⟩

/-- The first bracket of SET_DISTANCE_MODE has an exit frame (42_setters.md R198). -/
theorem noExit_patternStage {s : State} (h : SeqInv s) (hc : s.cx ≠ .idle) (hop : s.op = 6#4)
    (hs : s.stage = .pattern) : s.cmd.noExit = false := by
  have hcmd := h.command hc
  rw [hop, hs] at hcmd
  rw [← Option.some.inj hcmd]
  rfl

/-- Only a bracket that has ended, or none, is responded to (R182). -/
theorem cx_of_rsp {s : State} (h : SeqInv s) (hp : s.ph = .rsp) (hc : s.cx ≠ .idle) :
    s.cx = .done ∨ s.cx = .failed := by
  have hpair := h.pair
  rw [hp] at hpair
  cases hcx : s.cx <;> rw [hcx] at hpair
  case idle => exact absurd hcx hc
  case done => exact .inl rfl
  case failed => exact .inr rfl
  all_goals cases hpair

/-- Settles O53: a request, a Status by CX, or the response taken. -/
theorem edgesOfCx : Obligations.EdgesOfCx := by
  intro s t h hn ht hne
  by_cases hi : s.ph = .idle
  · obtain ⟨-, rfl⟩ | ⟨w, rest, hw, ht⟩ := idleStep_cases hn hi ht
    · exact absurd rfl hne
    · obtain hc | ⟨hc, hb⟩ := exec_request_cx (reqOp_decodeReqWord w) ht
      · exact absurd hc hne
      · exact .inl ⟨cx_eq_idle_of_idle h hi, hc, hi, w, rest, hw, hb⟩
  obtain ⟨u, as, hcx | ⟨m, r, hm, hr, hres⟩, rfl⟩ | ⟨hp, htakes, hc⟩ := busyStep_cx h hn hi ht
  · exact absurd hcx hne
  · have hend : Ended r s { u with rxAns := as } := (hr.sameRun (sameRun_stepResult hres) :)
    have hstep : s.cx ≠ .exitPending → StepEnded r s { u with rxAns := as } := fun hc =>
      hend.resolve_right fun ⟨he, _⟩ => hc he
    have hlast : (∃ r, StepEnded r s { u with rxAns := as }) ∨ ExitSentUnscanned s { u with rxAns := as } :=
      hend.imp (⟨r, ·⟩) And.right
    have htries : m.tries = s.tries := by rw [hm.frame]
    rw [noExit_eq, ← hm.cmd, ← hm.op, ← hm.stage, ← hm.stat, ← htries]
    obtain ⟨hc, rfl, rfl⟩ | ⟨hc, -, -, rfl⟩ | ⟨hc, hrs, htry, rfl⟩ | ⟨hc, hk, rfl⟩ | ⟨hc, hk, rfl⟩ | ⟨hc, rfl⟩ :=
      stepResult_cases hres <;> rw [hm.cx] at hc
    · exact .inr (.inl ⟨hc, rfl, hstep (by rw [hc]; nofun)⟩)
    · exact absurd hm.cx hne
    · refine .inr (.inr (.inl ⟨hc, ?_, by omega, r, hrs, hstep (by rw [hc]; nofun)⟩))
      show (finish .errorTransmission { m with cx := .failed }).cx = .failed
      rw [finish_errorTransmission]; rfl
    · obtain ⟨hfin | ⟨-, hop, hs, -⟩, hstat⟩ := finish_cx r { m with stat := r, cx := .done }
      · exact .inr (.inr (.inr (.inr (.inl ⟨hc, hfin, hk, hstat ▸ hstep (by rw [hc]; nofun)⟩))))
      · have hx := noExit_patternStage h (by rw [hc]; nofun) (hm.op ▸ hop) (hm.stage ▸ hs)
        rw [hm.cmd, hx] at hk
        cases hk
    · exact .inr (.inr (.inr (.inl ⟨hc, rfl, hk, hstep (by rw [hc]; nofun)⟩)))
    · obtain ⟨hfin | ⟨hfin, hop, hs, hst⟩, -⟩ := finish_cx m.stat { m with cx := .done }
      · exact .inr (.inr (.inr (.inr (.inr (.inl ⟨hc, hfin, hlast⟩)))))
      · exact .inr (.inr (.inr (.inr (.inr (.inr (.inl ⟨hc, hfin, hop, hs, hst, hlast⟩))))))
  · have hfrom := cx_of_rsp h hp fun hidle => hne (hc.trans hidle.symm)
    exact .inr (.inr (.inr (.inr (.inr (.inr (.inr ⟨hfrom, hc, hp, htakes⟩))))))

end Sys2Proof.Proofs
end

section
/-! SUPPORT. The Req step of a command-issuing operation (42_setters.md R190, R191): the bytes its setter writes, the
bracket it starts, and the arguments it rejects. -/

namespace Sys2Proof.Proofs

open Sys2Proof.Machine Sys2Proof.Claims

/-! The bytes of an argument (20_memory.md R66). -/

theorem loByte_eq_ofNat (v : Half) : loByte v = BitVec.ofNat 8 v.toNat :=
  BitVec.eq_of_toNat_eq (by rw [toNat_loByte, BitVec.toNat_ofNat])

theorem hiByte_eq_ofNat (v : Half) : hiByte v = BitVec.ofNat 8 (v.toNat / 256) := by
  have := v.isLt
  exact BitVec.eq_of_toNat_eq (by rw [toNat_hiByte, BitVec.toNat_ofNat]; omega)

/-! The valid arguments (42_setters.md R207). -/

theorem validPeriod_iff (arg : Half) : validPeriod arg = true ↔ arg.toNat % 10 = 0 := beq_iff_eq

theorem validRange_iff (arg : Half) :
    validRange arg = true ↔ arg.toNat = 0 ∨ (300 ≤ arg.toNat ∧ arg.toNat ≤ 12000) := by
  simp only [validRange, Bool.or_eq_true, beq_iff_eq, Bool.and_eq_true, decide_eq_true_iff]

theorem validStrLo_iff (arg : Half) : validStrLo arg = true ↔ arg.toNat ≤ 80 := decide_eq_true_iff

theorem validStrHi_iff (arg : Half) : validStrHi arg = true ↔ arg.toNat ≤ 3000 := decide_eq_true_iff

/-! The setters that check their argument, and SET_DISTANCE_MODE, in the general form (R194, R198, R200 to R202). -/

theorem exec_setOutputPeriod (arg : Half) (s : State) : exec (.setOutputPeriod arg) s =
    commandOp 3#4 arg (validPeriod arg) (fun s => s.pack16 .period arg) .period s := rfl

theorem exec_setDistanceMode (arg : Half) (s : State) : exec (.setDistanceMode arg) s =
    commandOp 6#4 arg true (fun s => { s with stage := .pattern }.setCtByte .pattern 6 s.cfg.patternFix) .pattern s :=
  rfl

theorem exec_setRangeLimit (arg : Half) (s : State) : exec (.setRangeLimit arg) s =
    commandOp 7#4 arg (validRange arg) (fun s => (s.pack16 .range arg).packFlag arg) .range s := rfl

theorem exec_setStrengthLow (arg : Half) (s : State) : exec (.setStrengthLow arg) s =
    commandOp 8#4 arg (validStrLo arg) (fun s => s.pack16 .strLo arg) .strLo s := rfl

theorem exec_setStrengthHigh (arg : Half) (s : State) : exec (.setStrengthHigh arg) s =
    commandOp 9#4 arg (validStrHi arg) (fun s => s.pack16 .strHi arg) .strHi s := rfl

/-! The two outcomes in PH_IDLE. -/

section

variable {i : Instr} {op : BitVec 4} {arg : Half} {valid : Bool} {write : State → State} {k : Kind} {s : State}

theorem exec_accepted (hexec : ∀ s, exec i s = commandOp op arg valid write k s) (hp : s.ph = .idle)
    (hv : valid = true) : exec i s = .next (bracketing k (write (request op arg s))) := by
  subst hv
  exact (hexec s).trans (if_pos hp)

theorem exec_rejected (hexec : ∀ s, exec i s = commandOp op arg valid write k s) (hp : s.ph = .idle)
    (hv : ¬ valid = true) : exec i s = .next (responding .errorParameter (request op arg s)) := by
  obtain rfl : valid = false := Bool.not_eq_true _ ▸ hv
  exact (hexec s).trans (if_pos hp)

end

/-- Settles O18: the write of both operations is the identity. -/
theorem fixedCommandsWriteNothing : Obligations.FixedCommandsWriteNothing := fun _ _ hp =>
  ⟨exec_accepted (write := id) (fun _ => rfl) hp rfl, exec_accepted (write := id) (fun _ => rfl) hp rfl⟩

/-- Settles O19: each premise is the negation of the setter's own check. -/
theorem invalidArgumentsAreRejectedLocally : Obligations.InvalidArgumentsAreRejectedLocally := fun arg =>
  ⟨fun h _ hp => exec_rejected (exec_setOutputPeriod arg) hp (mt (validPeriod_iff arg).mp h),
    fun h _ hp => exec_rejected (exec_setRangeLimit arg) hp (mt (validRange_iff arg).mp (by omega)),
    fun h _ hp => exec_rejected (exec_setStrengthLow arg) hp (mt (validStrLo_iff arg).mp h.not_ge),
    fun h _ hp => exec_rejected (exec_setStrengthHigh arg) hp (mt (validStrHi_iff arg).mp h.not_ge)⟩

/-! The template bytes (30_encoding.md R102). -/

/-- From s to t exactly the bytes w of CT[k] were written, and nothing else. -/
structure Wrote (s t : State) (k : Kind) (w : Write) : Prop where
  frame : { t with ct := s.ct } = s
  bytes : ∀ (k' : Kind) (j : Fin 8), t.ctByte k' j = (if k' = k then w.at? j else none).getD (s.ctByte k' j)

theorem Wrote.refl (s : State) (k : Kind) : Wrote s s k [] where
  frame := rfl
  bytes k' j := by split <;> rfl

theorem at?_concat (w : Write) (i : Fin 8) (b : Byte) (j : Fin 8) :
    Write.at? (w ++ [(i, b)]) j = (w.at? j).or (if i = j then some b else none) := by
  rw [Write.at?, List.find?_append, Option.map_or, List.find?_singleton, apply_ite (Option.map Prod.snd)]
  simp only [beq_iff_eq]
  rfl

/-- One more byte, at an offset that is not among those written. -/
theorem Wrote.setCtByte {s t : State} {k : Kind} {w : Write} (h : Wrote s t k w) {i : Fin 8} (hi : w.at? i = none)
    (b : Byte) : Wrote s (t.setCtByte k i b) k (w ++ [(i, b)]) where
  frame := h.frame
  bytes k' j := by
    rw [ctByte_setCtByte, h.bytes, at?_concat]
    by_cases hk : k' = k
    · subst hk
      by_cases hj : i = j
      · subst hj; simp [hi]
      · simp [hj]
    · rw [if_neg fun hc => hk hc.1.symm, if_neg hk, if_neg hk]

/-- `PackSel(k, v)`. -/
theorem wrote_packSel (s : State) (k : Kind) (v : Half) : Wrote s (s.packSel k v) k (select v) := by
  rw [select, ← loByte_eq_ofNat]
  exact (Wrote.refl s k).setCtByte rfl (loByte v)

/-- `Pack16(k, v)`. -/
theorem wrote_pack16 (s : State) (k : Kind) (v : Half) : Wrote s (s.pack16 k v) k (pack v) := by
  rw [pack, ← loByte_eq_ofNat, ← hiByte_eq_ofNat]
  exact ((Wrote.refl s k).setCtByte rfl (loByte v)).setCtByte rfl (hiByte v)

/-- The enable flag of SET_RANGE_LIMIT (R200). -/
theorem rangeFlag_eq (c : Config) (v : Half) : c.rangeFlag v = if v.toNat = 0 then c.rlDis else c.rlEn := by
  simp only [Config.rangeFlag, ← BitVec.toNat_inj]
  rfl

/-- `Pack16` and `PackFlag` of SET_RANGE_LIMIT. -/
theorem wrote_range (s : State) (v : Half) : Wrote s ((s.pack16 .range v).packFlag v) .range
    (pack v ++ [(6, if v.toNat = 0 then s.cfg.rlDis else s.cfg.rlEn)]) := by
  rw [← rangeFlag_eq]
  exact (wrote_pack16 s .range v).setCtByte rfl (s.cfg.rangeFlag v)

/-! The setters. -/

/-- A setter with a valid argument starts its bracket with the bytes it writes. -/
theorem startsBracket_of_wrote {i : Instr} {op : BitVec 4} {arg : Half} {valid : Bool} {k : Kind} {w : Write}
    {write : State → State} (hexec : ∀ s, exec i s = commandOp op arg valid write k s) (hv : valid = true)
    (hw : ∀ s, Wrote s (write s) k w) : StartsBracket i op arg k w := fun s hp =>
  ⟨_, exec_accepted hexec hp hv, congrArg (bracketing k) (hw (request op arg s)).frame,
    (hw (request op arg s)).bytes⟩

/-- Settles O14: `PackSel`, whatever the argument. -/
theorem enumeratedSettersWriteByteSix : Obligations.EnumeratedSettersWriteByteSix := fun arg =>
  ⟨startsBracket_of_wrote (fun _ => rfl) rfl (wrote_packSel · .format arg),
    startsBracket_of_wrote (fun _ => rfl) rfl (wrote_packSel · .unit arg),
    startsBracket_of_wrote (fun _ => rfl) rfl (wrote_packSel · .pattern arg),
    startsBracket_of_wrote (fun _ => rfl) rfl (wrote_packSel · .baud arg),
    startsBracket_of_wrote (fun _ => rfl) rfl (wrote_packSel · .trigSrc arg)⟩

/-- Settles O15: `Pack16` of an argument that passes the setter's check. -/
theorem numericSettersPackLittleEndian : Obligations.NumericSettersPackLittleEndian := fun arg =>
  ⟨fun h =>
      startsBracket_of_wrote (exec_setOutputPeriod arg) ((validPeriod_iff arg).mpr h) (wrote_pack16 · .period arg),
    fun h => startsBracket_of_wrote (exec_setStrengthLow arg) ((validStrLo_iff arg).mpr h) (wrote_pack16 · .strLo arg),
    fun h => startsBracket_of_wrote (exec_setStrengthHigh arg) ((validStrHi_iff arg).mpr h) (wrote_pack16 · .strHi arg)⟩

/-- Settles O16: `Pack16` and the flag. -/
theorem setRangeLimitWritesThreeBytes : Obligations.SetRangeLimitWritesThreeBytes := by
  intro arg hv s hp
  have hstart := exec_accepted (exec_setRangeLimit arg) hp ((validRange_iff arg).mpr hv)
  have hw := wrote_range (request 7#4 arg s) arg
  exact ⟨_, hstart, congrArg (bracketing .range) hw.frame, hw.bytes⟩

/-- Settles O17: stage 0 writes one byte, that of the pattern template. -/
theorem setDistanceModeForcesThePattern : Obligations.SetDistanceModeForcesThePattern := by
  intro arg s hp
  have hstart := exec_accepted (exec_setDistanceMode arg) hp rfl
  refine ⟨_, hstart, rfl, fun k j => ?_⟩
  simp only [eq_comm (a := k), eq_comm (a := j)]
  exact ctByte_setCtByte (request 6#4 arg { s with stage := .pattern }) .pattern k 6 j s.cfg.patternFix

end Sys2Proof.Proofs
end

section
/-! SUPPORT. Brackets whose every frame is acknowledged with Success (95_test_vectors.md S4, 42_setters.md R209): the Req
step starts the first, each runs as `Exec` does, and the last one's `Finish` answers Success. -/

namespace Sys2Proof.Proofs

open Sys2Proof.Machine Sys2Proof.Claims

/-! The start. -/

/-- The frame of a Req step says all of the next state but its table. -/
theorem eq_of_startFrame {t m : State} {ct : Vector Template 14} {k : Kind}
    (h : { t with ct := ct } = bracketing k m) : t = bracketing k { m with ct := t.ct } :=
  congrArg (fun u : State => { u with ct := t.ct }) h

theorem exec_of_startsBracket {i : Instr} {op : BitVec 4} {arg : Half} {k : Kind} {w : Write}
    (h : StartsBracket i op arg k w) {s : State} (hp : s.ph = .idle) :
    ∃ ct, exec i s = .next (bracketing k { request op arg s with ct := ct }) := by
  obtain ⟨t, ht, hframe, -⟩ := h s hp
  exact ⟨t.ct, ht.trans (congrArg Host.Outcome.next (eq_of_startFrame hframe))⟩

/-- The request i runs one bracket when all goes well, that of k, and starts it in its Req step. -/
structure OneBracket (i : Instr) (op : BitVec 4) (arg : Half) (k : Kind) : Prop where
  brackets : brackets i = [k]
  command : k.isCommand = true
  notMode : op ≠ 6#4
  start : ∀ s : State, s.ph = .idle → ∃ ct, exec i s = .next (bracketing k { request op arg s with ct := ct })

/-- A command-issuing operation with a valid argument runs one bracket, or is SET_DISTANCE_MODE (42_setters.md R197,
R209). -/
theorem oneBracket_or_distanceMode {i : Instr} {op : BitVec 4} {arg : Half} (hi : reqOp i = some (op, arg))
    (hb : brackets i ≠ []) : (∃ k, OneBracket i op arg k) ∨ (i = .setDistanceMode arg ∧ op = 6#4) := by
  obtain ⟨hformat, hunit, hpattern, hbaud, htrigSrc⟩ := enumeratedSettersWriteByteSix arg
  obtain ⟨hperiod, hstrLo, hstrHi⟩ := numericSettersPackLittleEndian arg
  have hfixed := fixedCommandsWriteNothing arg
  cases i <;> simp only [reqOp, Option.some.injEq, Prod.mk.injEq, reduceCtorEq] at hi <;> obtain ⟨rfl, rfl⟩ := hi
  case readMeasurement | getBudget | setBudget | reservedOp15 => exact absurd rfl hb
  case setDistanceMode => exact .inr ⟨rfl, rfl⟩
  case setOutputFormat => exact .inl ⟨.format, rfl, rfl, by decide, fun _ => exec_of_startsBracket hformat⟩
  case setDistanceUnit => exact .inl ⟨.unit, rfl, rfl, by decide, fun _ => exec_of_startsBracket hunit⟩
  case setDetectionPattern => exact .inl ⟨.pattern, rfl, rfl, by decide, fun _ => exec_of_startsBracket hpattern⟩
  case setBaudRate => exact .inl ⟨.baud, rfl, rfl, by decide, fun _ => exec_of_startsBracket hbaud⟩
  case setTriggerSource => exact .inl ⟨.trigSrc, rfl, rfl, by decide, fun _ => exec_of_startsBracket htrigSrc⟩
  case triggerMeasurement => exact .inl ⟨.trigger, rfl, rfl, by decide, fun s hp => ⟨s.ct, (hfixed s hp).1⟩⟩
  case resetDevice => exact .inl ⟨.reset, rfl, rfl, by decide, fun s hp => ⟨s.ct, (hfixed s hp).2⟩⟩
  case setOutputPeriod arg =>
    have hv : arg.toNat % 10 = 0 := of_not_not fun h => hb (if_neg h)
    exact .inl ⟨.period, if_pos hv, rfl, by decide, fun _ => exec_of_startsBracket (hperiod hv)⟩
  case setStrengthLow arg =>
    have hv : arg.toNat ≤ 80 := of_not_not fun h => hb (if_neg h)
    exact .inl ⟨.strLo, if_pos hv, rfl, by decide, fun _ => exec_of_startsBracket (hstrLo hv)⟩
  case setStrengthHigh arg =>
    have hv : arg.toNat ≤ 3000 := of_not_not fun h => hb (if_neg h)
    exact .inl ⟨.strHi, if_pos hv, rfl, by decide, fun _ => exec_of_startsBracket (hstrHi hv)⟩
  case setRangeLimit arg =>
    have hv : arg.toNat = 0 ∨ (300 ≤ arg.toNat ∧ arg.toNat ≤ 12000) := of_not_not fun h => hb (if_neg h)
    refine .inl ⟨.range, if_pos hv, rfl, by decide, fun s hp => ?_⟩
    obtain ⟨t, ht, hframe, -⟩ := setRangeLimitWritesThreeBytes arg hv s hp
    exact ⟨t.ct, ht.trans (congrArg Host.Outcome.next (eq_of_startFrame hframe))⟩

/-! One bracket. -/

theorem taken_add (m n : Nat) : taken (m + n) = taken m ++ taken n := List.replicate_add ..

theorem successes_add (m n : Nat) : successes (m + n) = successes m ++ successes n := by
  simp only [successes, List.replicate_add, List.flatten_append]

/-- The acknowledgments of a bracket, as `ExecReturnsTheCommandsStatus` counts them. -/
theorem successes_bracketAcks (cfg : Config) (c : Kind) :
    successes (bracketAcks cfg c) =
      (ackBytes 0x01#8 ++ ackBytes 0x01#8 ++ ackBytes 0x01#8).take (4 * bracketAcks cfg c) := by
  have h : bracketAcks cfg c = 2 ∨ bracketAcks cfg c = 3 := by
    unfold bracketAcks
    split
    · exact .inl rfl
    · split
      · exact .inr rfl
      · exact .inl rfl
  obtain h | h := h <;> rw [h] <;> rfl

/-- The ports answer every frame of a bracket of kind c with Success, and the budget covers an acknowledgment. -/
structure Acknowledging (c : Kind) (txs : List TxAns) (rxs : List RxAns) (s : State) : Prop where
  grain : ByteGrain s
  budget : AckBudget s
  tx : s.txAns = taken (8 * (bracketFrames c).length) ++ txs
  rx : s.rxAns = answers (successes (bracketAcks s.cfg c)) ++ rxs

/-- A bracket whose every frame is acknowledged with Success reaches `Finish(Success)`. -/
theorem bracketing_reaches_finish {s : State} {c : Kind} {txs : List TxAns} {rxs : List RxAns}
    (h : Acknowledging c txs rxs s) (hc : c.isCommand = true) :
    ∃ (n : Nat) (u : State), core.run n (bracketing c s) = .next (finish .success u) ∧ u.cx = .done ∧
      Exchanged { s with cmd := c, stat := .success } (bracketFrames c) txs rxs u := by
  obtain ⟨h3, hw⟩ := h.budget
  obtain ⟨t, hexec, hret, hsent, hframe⟩ := execReturnsTheCommandsStatus s c 0x01#8 0x01#8 txs rxs hc h3 hw h.tx
    (by rw [← successes_bracketAcks]; exact h.rx)
  obtain ⟨n, hrun⟩ := execIsTheSmallStepMachine s t c .success h.grain (by omega) hexec hret
  refine ⟨n, { t with ret := s.ret }, hrun, ?_, ?_, hsent⟩
  · rw [hframe]
  · rw [hframe]; rfl

/-! The answer. -/

/-- From s the frames of the kinds ks were sent, as the templates of t hold them, and in t the answer is Success. -/
structure Succeeded (s : State) (ks : List Kind) (txs : List TxAns) (rxs : List RxAns) (t : State) : Prop where
  ph : t.ph = .rsp
  cx : t.cx = .done
  status : t.rspStatus = some .success
  reqs : t.reqs = s.reqs
  txAns : t.txAns = txs
  rxAns : t.rxAns = rxs
  sent : txStream t = txStream s ++ frameBytes t ks

/-- The last bracket of an operation is answered as it ends (41_command_fsm.md R173). -/
theorem lastBracket_succeeds {s : State} {c : Kind} {txs : List TxAns} {rxs : List RxAns}
    (h : Acknowledging c txs rxs s) (hc : c.isCommand = true) (hlast : ¬ (s.op = 6#4 ∧ s.stage = .pattern)) :
    ∃ (n : Nat) (t : State), core.run n (bracketing c s) = .next t ∧
      Succeeded s (bracketFrames c) txs rxs t ∧ t.ct = s.ct := by
  obtain ⟨n, u, hrun, hcx, hu⟩ := bracketing_reaches_finish h hc
  have hlast : ¬ (u.op = 6#4 ∧ u.stage = .pattern) := by rw [hu.frame]; exact hlast
  have hreqs : u.reqs = s.reqs := by rw [hu.frame]
  rw [finish_responds hlast] at hrun
  have hsent : txStream u = txStream s ++ frameBytes u (bracketFrames c) := by
    rw [frameBytes_congr hu.ct]; exact hu.sent
  exact ⟨n, _, hrun, ⟨rfl, hcx, rfl, hreqs, hu.txAns, hu.rxAns, hsent⟩, hu.ct⟩

/-! The two brackets of SET_DISTANCE_MODE (42_setters.md R197 to R199). -/

/-- Stage 1 writes no template but the mode's. -/
theorem template_startModeStage (s : State) {k : Kind} (hk : k ≠ .mode) :
    (startModeStage s).template k = s.template k :=
  Vector.ext fun j hj => (ctByte_startModeStage s k ⟨j, hj⟩).trans (if_neg fun h => hk h.1)

theorem frameBytes_startModeStage (s : State) {ks : List Kind} (hk : .mode ∉ ks) :
    frameBytes (startModeStage s) ks = frameBytes s ks := by
  have htemplates : ∀ k ∈ ks, ((startModeStage s).template k).toList = (s.template k).toList := fun k hm =>
    congrArg Vector.toList (template_startModeStage s fun he => hk (he ▸ hm))
  rw [frameBytes, List.map_congr_left htemplates, frameBytes]

/-- Stage 0 ends with Success and starts stage 1, whose bracket is the last. -/
theorem bothStages_succeed {s : State} {txs : List TxAns} {rxs : List RxAns} (hop : s.op = 6#4)
    (hstage : s.stage = .pattern)
    (h : Acknowledging .pattern (taken (8 * (bracketFrames .mode).length) ++ txs)
      (answers (successes (bracketAcks s.cfg .mode)) ++ rxs) s) :
    ∃ (n : Nat) (t : State), core.run n (bracketing .pattern s) = .next t ∧
      Succeeded s (bracketFrames .pattern ++ bracketFrames .mode) txs rxs t := by
  obtain ⟨n, u, hrun, -, hu⟩ := bracketing_reaches_finish h rfl
  have hsession : u.op = 6#4 ∧ u.stage = .pattern ∧ u.cfg = s.cfg ∧ u.reqs = s.reqs ∧ ByteGrain u := by
    rw [hu.frame]; exact ⟨hop, hstage, rfl, rfl, h.grain⟩
  obtain ⟨huop, hustage, hcfg, hreqs, hgrain⟩ := hsession
  rw [finish_success_patternStage huop hustage] at hrun
  obtain ⟨m, t, hmode, ht, hct⟩ := lastBracket_succeeds (c := .mode)
    (s := { u with stage := .mode }.packSel .mode u.arg)
    { grain := hgrain, budget := hu.budget h.budget, tx := hu.txAns, rx := by rw [← hcfg] at hu; exact hu.rxAns } rfl
    fun hc => absurd (show Stage.mode = .pattern from hc.2) nofun
  refine ⟨n + m, t, (run_add hrun m).trans hmode, { ht with reqs := ht.reqs.trans hreqs, sent := ?_ }⟩
  have hpattern : frameBytes t (bracketFrames .pattern) = frameBytes s (bracketFrames .pattern) :=
    calc frameBytes t (bracketFrames .pattern)
      _ = frameBytes (startModeStage u) (bracketFrames .pattern) := frameBytes_congr hct _
      _ = frameBytes u (bracketFrames .pattern) := frameBytes_startModeStage u (by decide)
      _ = frameBytes s (bracketFrames .pattern) := frameBytes_congr hu.ct _
  calc txStream t
    _ = txStream u ++ frameBytes t (bracketFrames .mode) := ht.sent
    _ = txStream s ++ frameBytes s (bracketFrames .pattern) ++ frameBytes t (bracketFrames .mode) :=
      congrArg (· ++ _) hu.sent
    _ = txStream s ++ frameBytes t (bracketFrames .pattern ++ bracketFrames .mode) := by
      rw [← hpattern, List.append_assoc, frameBytes_append]

/-- Settles O58: the Req step, and the one bracket or the two of SET_DISTANCE_MODE. -/
theorem acknowledgedCommandsSucceed : Obligations.AcknowledgedCommandsSucceed := by
  intro s i op arg rest txs rxs hg hp ha hw hi hb hreq ht hr
  have hstep := stepRunsThePendingRequest s _ rest (noReset_of_byteGrain hg) hp hreq
  rw [word_eq_reqWord, decodeReqWord_reqWord hi] at hstep
  obtain ⟨hrst, htb, hrb⟩ := hg
  have hgrain : ByteGrain { s with rst := s.rst.tail, reqs := rest } := ⟨congrArg List.tail hrst, htb, hrb⟩
  suffices hrun : ∃ (n : Nat) (t : State), core.run n s = .next t ∧
      Succeeded { s with reqs := rest } ((brackets i).map bracketFrames).flatten txs rxs t by
    obtain ⟨n, t, hrun, h⟩ := hrun
    exact ⟨n, t, hrun, h.ph, h.cx, h.status, h.reqs, h.txAns, h.rxAns, h.sent⟩
  obtain ⟨k, hk⟩ | ⟨rfl, rfl⟩ := oneBracket_or_distanceMode hi hb
  · simp only [hk.brackets, List.map_cons, List.map_nil, List.flatten_cons, List.flatten_nil, List.append_nil,
      List.sum_cons, List.sum_nil, Nat.add_zero] at ht hr ⊢
    obtain ⟨ct, hstart⟩ := hk.start { s with rst := s.rst.tail, reqs := rest } hp
    obtain ⟨n, t, hrun, h, -⟩ := lastBracket_succeeds
      (s := { request op arg { s with rst := s.rst.tail, reqs := rest } with ct := ct })
      { grain := hgrain, budget := ⟨ha, hw⟩, tx := ht, rx := hr } hk.command fun hc => hk.notMode hc.1
    exact ⟨n + 1, t, (run_succ (hstep.trans hstart) n).trans hrun, { h with }⟩
  · simp only [brackets, List.map_cons, List.map_nil, List.flatten_cons, List.flatten_nil, List.append_nil,
      List.sum_cons, List.sum_nil, Nat.add_zero, List.length_append, Nat.mul_add, taken_add, successes_add,
      answers_append, List.append_assoc] at ht hr ⊢
    obtain ⟨m, hm, hframe, -⟩ :=
      setDistanceModeForcesThePattern arg { s with rst := s.rst.tail, reqs := rest } hp
    have hstart := hm.trans (congrArg Host.Outcome.next (eq_of_startFrame hframe))
    obtain ⟨n, t, hrun, h⟩ := bothStages_succeed
      (s := { request 6#4 arg { s with rst := s.rst.tail, reqs := rest, stage := .pattern } with ct := m.ct })
      rfl rfl { grain := hgrain, budget := ⟨ha, hw⟩, tx := ht, rx := hr }
    exact ⟨n + 1, t, (run_succ (hstep.trans hstart) n).trans hrun, { h with }⟩

end Sys2Proof.Proofs
end

section
/-! SUPPORT. The measurement decoder (43_decoder.md): the request that starts it, its two rows over PB, and the end
of the run that calls it. -/

namespace Sys2Proof.Proofs

open Sys2Proof.Machine Sys2Proof.Claims

/-- Settles O11: operation code 0 is READ_MEASUREMENT's, and PH_IDLE accepts it. -/
theorem readMeasurementStartsARun : Obligations.ReadMeasurementStartsARun := fun _ arg =>
  ⟨(congrArg decodeReqWord (word_eq_reqWord 0#4 arg)).trans (decodeReqWord_reqWord rfl), fun hp => if_pos hp⟩

/-! The rows Extract and Checksum (R232, R235, R240). -/

/-- Two neighbouring bytes of a vector, low byte first, are its 16-bit slice. -/
theorem half_extract (pay : BitVec 56) (i : Nat) :
    half (pay.extractLsb' i 8) (pay.extractLsb' (i + 8) 8) = pay.extractLsb' i 16 :=
  BitVec.extractLsb'_append_extractLsb'_eq_extractLsb' rfl

/-- Settles O38: each register is two neighbouring bytes of the payload. -/
theorem extractSelectsFixedSlices : Obligations.ExtractSelectsFixedSlices := by
  intro s pay hpay
  have hreading : readingOf s.pb = pay.extractLsb' 0 16 :=
    (congrArg₂ half (hpay 0) (hpay 1)).trans (half_extract pay 0)
  have hstrength : strengthOf s.pb = pay.extractLsb' 16 16 :=
    (congrArg₂ half (hpay 2) (hpay 3)).trans (half_extract pay 16)
  rw [← hreading, ← hstrength]
  rfl

/-- The row Checksum writes CK_OK only. -/
theorem exec_checksum (s : State) : exec .checksum s = .next { s with ckOk := some (checksumOk s.pb) } := rfl

/-- Settles O37: reduction modulo 256 is the low 8 bits. -/
theorem checksumComparesTheSum : Obligations.ChecksumComparesTheSum := by
  refine fun s => ⟨_, exec_checksum s, ?_⟩
  rw [checksumOk_eq, decide_eq_true_iff, ← BitVec.toNat_inj, BitVec.toNat_ofNat]

/-- A new value of a summed byte moves the sum by the difference of the two values. -/
theorem sumOf_set {j : Nat} (hj : j < 6) (pb : Vector Byte 7) (b : Byte) :
    sumOf (pb.set j b) + pb[j].toNat = sumOf pb + b.toNat := by
  obtain ⟨b0, b1, b2, b3, b4, b5, b6, rfl⟩ := payload_bytes pb
  interval_cases j <;> simp +arith [sumOf]

/-- The checksum byte is not summed. -/
theorem sumOf_set_checksum (pb : Vector Byte 7) (b : Byte) : sumOf (pb.set 6 b) = sumOf pb := by
  obtain ⟨b0, b1, b2, b3, b4, b5, b6, rfl⟩ := payload_bytes pb
  rfl

/-- A change of one byte changes one side of the comparison: the checksum, or the sum by less than 256 (R240). -/
theorem checksumOk_set {pb : Vector Byte 7} {j : Nat} {b : Byte} (hj : j < 7) (hok : checksumOk pb = true)
    (hb : b ≠ pb[j]) : checksumOk (pb.set j b) = false := by
  have hne : b.toNat ≠ pb[j].toNat := fun h => hb (BitVec.eq_of_toNat_eq h)
  rw [checksumOk_eq, decide_eq_true_iff] at hok
  rw [checksumOk_eq, decide_eq_false_iff_not]
  obtain h6 | rfl : j < 6 ∨ j = 6 := by omega
  · have hsum := sumOf_set h6 pb b
    have hold := pb[j].isLt
    have hnew := b.isLt
    rw [Vector.getElem_set_ne _ _ (Nat.ne_of_lt h6)]
    omega
  · rw [sumOf_set_checksum, Vector.getElem_set_self, hok]
    exact hne.symm

/-- Settles O39: CK_OK of the changed payload is what the row writes. -/
theorem everySingleByteChangeIsDetected : Obligations.EverySingleByteChangeIsDetected := by
  intro s t j b h hok hb
  cases h
  exact ⟨_, exec_checksum _, congrArg some (checksumOk_set j.isLt (Option.some.inj hok) hb)⟩

/-! The end of the run (R231, R239). -/

/-- Settles O33: an ACK run's Status goes to the executor, a MEAS run's payload to the decoder. -/
theorem endOfARun : Obligations.EndOfARun := fun s =>
  ⟨fun h => ⟨endRun_ack h true, endRun_ack h false⟩,
    fun h => ⟨endRun_meas h false, _, endRun_meas h true, decoded_decodeMeas s, rfl⟩⟩

/-- Settles O36: the byte that delivers PB[6] ends the run, whose payload then holds it. -/
theorem decodeWritesTheMeasurement : Obligations.DecodeWritesTheMeasurement := by
  refine ⟨fun s => ⟨_, rfl, decoded_decodeMeas s, rfl⟩, fun s b hp hm hpc => ?_⟩
  have hstep := (payloadStepAndReceiveFailure.1 s b (by rw [hpc]; decide) 7 hp (by rw [hpc]; rfl)).1 (by rw [hm]; rfl)
  simp only [hpc] at hstep
  obtain ⟨-, t, hend, hdecoded, hframe⟩ :=
    (endOfARun (received (.byte b) { s with pb := s.pb.set 6 b, pc := 7 })).2 hm
  exact ⟨t, hstep.trans hend, hdecoded, hframe⟩

end Sys2Proof.Proofs
end

section
/-! SUPPORT. The session operations GET_BUDGET and SET_BUDGET (44_session_ops.md): the budget stored, and the two accepted
requests. -/

namespace Sys2Proof.Proofs

open Sys2Proof.Machine Sys2Proof.Claims

/-- The 20-bit word of an operation code and an argument is decoded to that request (30_encoding.md R103). -/
theorem decodeReqWord_word {i : Instr} {op : BitVec 4} {arg : Half} (h : reqOp i = some (op, arg)) :
    decodeReqWord (word op.toNat arg) = i :=
  (congrArg decodeReqWord (word_eq_reqWord op arg)).trans (decodeReqWord_reqWord h)

/-! The budget that SET_BUDGET stores (R252), for every parameter record. -/

theorem budgetOf_pos (c : Config) (arg : Half) : 1 ≤ budgetOf c arg := by
  unfold budgetOf
  split
  next => exact Nat.le_refl 1
  next hne => exact Nat.one_le_iff_ne_zero.mpr hne

theorem budgetOf_zero (c : Config) : budgetOf c 0#16 = 1 := if_pos (Nat.zero_mod _)

theorem budgetOf_of_ne_zero {c : Config} {arg : Half} (h : arg.toNat % 2 ^ c.msaW ≠ 0) :
    budgetOf c arg = arg.toNat % 2 ^ c.msaW := if_neg h

/-! The two operations in PH_IDLE. -/

theorem exec_getBudget {s : State} (hp : s.ph = .idle) (arg : Half) : exec (.getBudget arg) s =
    .next (responding .success { request 1#4 arg s with rspData := some (BitVec.ofNat 16 s.msa) }) := if_pos hp

theorem exec_setBudget {s : State} (hp : s.ph = .idle) (arg : Half) : exec (.setBudget arg) s =
    .next (responding .success (request 14#4 arg { s with msa := budgetOf s.cfg arg })) := if_pos hp

/-- Settles O12: RSP_DATA, which an accepted request leaves unwritten, is the one register written besides the response. -/
theorem getBudgetAnswersTheBudget : Obligations.GetBudgetAnswersTheBudget := by
  refine ⟨fun s arg hp => ⟨_, exec_getBudget hp arg, rfl, rfl⟩, fun s hpos hlt => ?_,
    fun _ => decodeReqWord_word (op := 1#4) rfl, _, exec_getBudget rfl _, rfl⟩
  rwa [BitVec.toNat_ofNat, Nat.mod_eq_of_lt hlt]

/-- Settles O13: the value is `budgetOf`. -/
theorem setBudgetStoresTheBudget : Obligations.SetBudgetStoresTheBudget :=
  ⟨fun s arg hp => ⟨budgetOf s.cfg arg, exec_setBudget hp arg, budgetOf_pos s.cfg arg,
      fun h0 => h0 ▸ budgetOf_zero s.cfg, budgetOf_of_ne_zero⟩,
    fun _ => decodeReqWord_word (op := 14#4) rfl⟩

end Sys2Proof.Proofs
end
